-- ==== Sys2Proof/Word.lean ====
section
/-! DEFINITION. The words the codec works on: 32-bit registers and 8-bit buffer bytes
(`00_scope.md` R8, R11). -/

namespace Sys2Proof

/-- A register value or a command word: 32 bits (`00_scope.md` R8). -/
abbrev Word := BitVec 32

/-- A byte of IBUF, OBUF or a wire format, a value 0..255 (`00_scope.md` R11). -/
abbrev Byte := BitVec 8

end Sys2Proof
end

