-- ==== Sys2Proof/Syntax.lean ====
section
/-! DEFINITION. The command set: one constructor per row of spec/opcode_table.json
(`30_encoding.md` R106), with the operands its format carries (R101). -/

namespace Sys2Proof

/-- The four command formats (`30_encoding.md` R101). -/
inductive Format where
  | n | v | t | f
  deriving DecidableEq, Repr

/-- The 53 commands. `off` is the view offset OFF of format V (R102), `prec ld ht hr` are the
lanes of format T (R103), `df mf` those of format F (R104). -/
inductive Instr where
  | verRaw
  | verParse (off : Nat)
  | verSer
  | ihlRaw
  | ihlParse (off : Nat)
  | ihlSer
  | ihlBytelen
  | ihlOptlen
  | ihlFromBytelen
  | tosRaw
  | tosParse (off : Nat)
  | tosSer
  | tosPack (prec : Nat) (ld ht hr : Bool)
  | tosUnpack
  | precRaw
  | precParse (off : Nat)
  | precSer
  | tlenRaw
  | tlenParse (off : Nat)
  | tlenSer
  | identRaw
  | identParse (off : Nat)
  | identSer
  | flagsRaw
  | flagsParse (off : Nat)
  | flagsSer
  | flagsPack (df mf : Bool)
  | flagsUnpack
  | foffRaw
  | foffParse (off : Nat)
  | foffSer
  | ttlRaw
  | ttlParse (off : Nat)
  | ttlSer
  | ttlExpired
  | ttlDec
  | protoRaw
  | protoParse (off : Nat)
  | protoSer
  | hcsumRaw
  | hcsumParse (off : Nat)
  | hcsumSer
  | addrRaw
  | addrOctets
  | addrParseBin (off : Nat)
  | addrSerBin
  | addrParseText (off : Nat)
  | addrFormatText
  | addrClass
  | csumCompute (off : Nat)
  | csumVerify (off : Nat)
  | cmpRaw
  | obufClear
  deriving DecidableEq, Repr

end Sys2Proof
end

