-- ==== Sys2Proof/WellFormed.lean ====
section
/-! DEFINITION. Which commands have an encoding: an operand must fit its field
(`30_encoding.md` R101 to R104; R111 "An assembler refuses any operand that does not fit its
field"). -/

namespace Sys2Proof

/-- OFF is an unsigned 16-bit offset (R102) and PREC is 3 bits wide (R103); the one-bit lanes
are Booleans. -/
def Instr.wellFormed : Instr → Bool
  | .verRaw => true
  | .verParse off => decide (off < 65536)
  | .verSer => true
  | .ihlRaw => true
  | .ihlParse off => decide (off < 65536)
  | .ihlSer => true
  | .ihlBytelen => true
  | .ihlOptlen => true
  | .ihlFromBytelen => true
  | .tosRaw => true
  | .tosParse off => decide (off < 65536)
  | .tosSer => true
  | .tosPack prec _ _ _ => decide (prec < 8)
  | .tosUnpack => true
  | .precRaw => true
  | .precParse off => decide (off < 65536)
  | .precSer => true
  | .tlenRaw => true
  | .tlenParse off => decide (off < 65536)
  | .tlenSer => true
  | .identRaw => true
  | .identParse off => decide (off < 65536)
  | .identSer => true
  | .flagsRaw => true
  | .flagsParse off => decide (off < 65536)
  | .flagsSer => true
  | .flagsPack _ _ => true
  | .flagsUnpack => true
  | .foffRaw => true
  | .foffParse off => decide (off < 65536)
  | .foffSer => true
  | .ttlRaw => true
  | .ttlParse off => decide (off < 65536)
  | .ttlSer => true
  | .ttlExpired => true
  | .ttlDec => true
  | .protoRaw => true
  | .protoParse off => decide (off < 65536)
  | .protoSer => true
  | .hcsumRaw => true
  | .hcsumParse off => decide (off < 65536)
  | .hcsumSer => true
  | .addrRaw => true
  | .addrOctets => true
  | .addrParseBin off => decide (off < 65536)
  | .addrSerBin => true
  | .addrParseText off => decide (off < 65536)
  | .addrFormatText => true
  | .addrClass => true
  | .csumCompute off => decide (off < 65536)
  | .csumVerify off => decide (off < 65536)
  | .cmpRaw => true
  | .obufClear => true

end Sys2Proof
end

