-- ==== Sys2Proof/Decode.lean ====
section
/-! DEFINITION. The decoder, total on every 32-bit word (`30_encoding.md` R108), and the encoder
written from the same opcode map (R106). -/

namespace Sys2Proof

/-- Why a word is no command (`30_encoding.md` R107 (a) and (b)). -/
inductive DecodeError where
  | unknownOpcode
  | reservedImm
  deriving DecidableEq, Repr

/-- OPCODE = bits 31:24 (`30_encoding.md` R100). -/
def opcodeField (w : Word) : BitVec 8 := w.extractLsb' 24 8

/-- IMM = bits 23:0 (`30_encoding.md` R100). -/
def immField (w : Word) : BitVec 24 := w.extractLsb' 0 24

/-- The IMM bits a format may set; all others are reserved and must be 0 (`30_encoding.md` R101). -/
def allowedMask : Format → BitVec 24
  | .n => 0x000000#24
  | .v => 0x00FFFF#24
  | .t => 0x00003F#24
  | .f => 0x000003#24

/-- OFF = IMM[15:0], zero-extended and unscaled (`30_encoding.md` R102). -/
def offLane (imm : BitVec 24) : Nat := (imm.extractLsb' 0 16).toNat

/-- PREC = IMM[2:0] (`30_encoding.md` R103). -/
def precLane (imm : BitVec 24) : Nat := (imm.extractLsb' 0 3).toNat

/-- A row of the opcode map: the format, and how the operand fields make the command. -/
inductive Entry where
  | n (i : Instr)
  | v (mk : Nat → Instr)
  | t (mk : Nat → Bool → Bool → Bool → Instr)
  | f (mk : Bool → Bool → Instr)

def Entry.format : Entry → Format
  | .n _ => .n
  | .v _ => .v
  | .t _ => .t
  | .f _ => .f

/-- The command of a row with the operands in `imm` (`30_encoding.md` R102: OFF; R103: LD = IMM[3],
HT = IMM[4], HR = IMM[5]; R104: DF = IMM[0], MF = IMM[1]). -/
def Entry.build (imm : BitVec 24) : Entry → Instr
  | .n i => i
  | .v mk => mk (offLane imm)
  | .t mk => mk (precLane imm) (imm.getLsbD 3) (imm.getLsbD 4) (imm.getLsbD 5)
  | .f mk => mk (imm.getLsbD 0) (imm.getLsbD 1)

/-- The opcode map (`30_encoding.md` R106). -/
def opcodeMap : Nat → Option Entry
  | 0x10 => some (.n .verRaw)
  | 0x11 => some (.v .verParse)
  | 0x12 => some (.n .verSer)
  | 0x14 => some (.n .ihlRaw)
  | 0x15 => some (.v .ihlParse)
  | 0x16 => some (.n .ihlSer)
  | 0x17 => some (.n .ihlBytelen)
  | 0x18 => some (.n .ihlOptlen)
  | 0x19 => some (.n .ihlFromBytelen)
  | 0x20 => some (.n .tosRaw)
  | 0x21 => some (.v .tosParse)
  | 0x22 => some (.n .tosSer)
  | 0x23 => some (.t .tosPack)
  | 0x24 => some (.n .tosUnpack)
  | 0x28 => some (.n .precRaw)
  | 0x29 => some (.v .precParse)
  | 0x2A => some (.n .precSer)
  | 0x30 => some (.n .tlenRaw)
  | 0x31 => some (.v .tlenParse)
  | 0x32 => some (.n .tlenSer)
  | 0x34 => some (.n .identRaw)
  | 0x35 => some (.v .identParse)
  | 0x36 => some (.n .identSer)
  | 0x38 => some (.n .flagsRaw)
  | 0x39 => some (.v .flagsParse)
  | 0x3A => some (.n .flagsSer)
  | 0x3B => some (.f .flagsPack)
  | 0x3C => some (.n .flagsUnpack)
  | 0x40 => some (.n .foffRaw)
  | 0x41 => some (.v .foffParse)
  | 0x42 => some (.n .foffSer)
  | 0x44 => some (.n .ttlRaw)
  | 0x45 => some (.v .ttlParse)
  | 0x46 => some (.n .ttlSer)
  | 0x47 => some (.n .ttlExpired)
  | 0x48 => some (.n .ttlDec)
  | 0x4C => some (.n .protoRaw)
  | 0x4D => some (.v .protoParse)
  | 0x4E => some (.n .protoSer)
  | 0x50 => some (.n .hcsumRaw)
  | 0x51 => some (.v .hcsumParse)
  | 0x52 => some (.n .hcsumSer)
  | 0x60 => some (.n .addrRaw)
  | 0x61 => some (.n .addrOctets)
  | 0x62 => some (.v .addrParseBin)
  | 0x63 => some (.n .addrSerBin)
  | 0x64 => some (.v .addrParseText)
  | 0x65 => some (.n .addrFormatText)
  | 0x66 => some (.n .addrClass)
  | 0x70 => some (.v .csumCompute)
  | 0x71 => some (.v .csumVerify)
  | 0x80 => some (.n .cmpRaw)
  | 0xF0 => some (.n .obufClear)
  | _ => none

/-- The command a word names, or why it is illegal, in the order of `30_encoding.md` R110: the
opcode first, then the reserved IMM bits. -/
def decode (w : Word) : Except DecodeError Instr :=
  match opcodeMap (opcodeField w).toNat with
  | none => .error .unknownOpcode
  | some e =>
    if immField w &&& ~~~(allowedMask e.format) = 0#24 then .ok (e.build (immField w))
    else .error .reservedImm

/-- OPCODE of a command (`30_encoding.md` R106). -/
def Instr.opcode : Instr → BitVec 8
  | .verRaw => 0x10#8
  | .verParse _ => 0x11#8
  | .verSer => 0x12#8
  | .ihlRaw => 0x14#8
  | .ihlParse _ => 0x15#8
  | .ihlSer => 0x16#8
  | .ihlBytelen => 0x17#8
  | .ihlOptlen => 0x18#8
  | .ihlFromBytelen => 0x19#8
  | .tosRaw => 0x20#8
  | .tosParse _ => 0x21#8
  | .tosSer => 0x22#8
  | .tosPack _ _ _ _ => 0x23#8
  | .tosUnpack => 0x24#8
  | .precRaw => 0x28#8
  | .precParse _ => 0x29#8
  | .precSer => 0x2A#8
  | .tlenRaw => 0x30#8
  | .tlenParse _ => 0x31#8
  | .tlenSer => 0x32#8
  | .identRaw => 0x34#8
  | .identParse _ => 0x35#8
  | .identSer => 0x36#8
  | .flagsRaw => 0x38#8
  | .flagsParse _ => 0x39#8
  | .flagsSer => 0x3A#8
  | .flagsPack _ _ => 0x3B#8
  | .flagsUnpack => 0x3C#8
  | .foffRaw => 0x40#8
  | .foffParse _ => 0x41#8
  | .foffSer => 0x42#8
  | .ttlRaw => 0x44#8
  | .ttlParse _ => 0x45#8
  | .ttlSer => 0x46#8
  | .ttlExpired => 0x47#8
  | .ttlDec => 0x48#8
  | .protoRaw => 0x4C#8
  | .protoParse _ => 0x4D#8
  | .protoSer => 0x4E#8
  | .hcsumRaw => 0x50#8
  | .hcsumParse _ => 0x51#8
  | .hcsumSer => 0x52#8
  | .addrRaw => 0x60#8
  | .addrOctets => 0x61#8
  | .addrParseBin _ => 0x62#8
  | .addrSerBin => 0x63#8
  | .addrParseText _ => 0x64#8
  | .addrFormatText => 0x65#8
  | .addrClass => 0x66#8
  | .csumCompute _ => 0x70#8
  | .csumVerify _ => 0x71#8
  | .cmpRaw => 0x80#8
  | .obufClear => 0xF0#8

/-- The format of a command (`30_encoding.md` R106). -/
def Instr.format : Instr → Format
  | .verRaw => .n
  | .verParse _ => .v
  | .verSer => .n
  | .ihlRaw => .n
  | .ihlParse _ => .v
  | .ihlSer => .n
  | .ihlBytelen => .n
  | .ihlOptlen => .n
  | .ihlFromBytelen => .n
  | .tosRaw => .n
  | .tosParse _ => .v
  | .tosSer => .n
  | .tosPack _ _ _ _ => .t
  | .tosUnpack => .n
  | .precRaw => .n
  | .precParse _ => .v
  | .precSer => .n
  | .tlenRaw => .n
  | .tlenParse _ => .v
  | .tlenSer => .n
  | .identRaw => .n
  | .identParse _ => .v
  | .identSer => .n
  | .flagsRaw => .n
  | .flagsParse _ => .v
  | .flagsSer => .n
  | .flagsPack _ _ => .f
  | .flagsUnpack => .n
  | .foffRaw => .n
  | .foffParse _ => .v
  | .foffSer => .n
  | .ttlRaw => .n
  | .ttlParse _ => .v
  | .ttlSer => .n
  | .ttlExpired => .n
  | .ttlDec => .n
  | .protoRaw => .n
  | .protoParse _ => .v
  | .protoSer => .n
  | .hcsumRaw => .n
  | .hcsumParse _ => .v
  | .hcsumSer => .n
  | .addrRaw => .n
  | .addrOctets => .n
  | .addrParseBin _ => .v
  | .addrSerBin => .n
  | .addrParseText _ => .v
  | .addrFormatText => .n
  | .addrClass => .n
  | .csumCompute _ => .v
  | .csumVerify _ => .v
  | .cmpRaw => .n
  | .obufClear => .n

/-- The lanes of format T (`30_encoding.md` R103). -/
def tosLanes (prec : Nat) (ld ht hr : Bool) : Nat :=
  prec ||| (ld.toNat <<< 3) ||| (ht.toNat <<< 4) ||| (hr.toNat <<< 5)

/-- The lanes of format F (`30_encoding.md` R104). -/
def flagLanes (df mf : Bool) : Nat := df.toNat ||| (mf.toNat <<< 1)

/-- IMM of a command, built by `30_encoding.md` R101. -/
def Instr.imm : Instr → BitVec 24
  | .verRaw => 0#24
  | .verParse off => BitVec.ofNat 24 off
  | .verSer => 0#24
  | .ihlRaw => 0#24
  | .ihlParse off => BitVec.ofNat 24 off
  | .ihlSer => 0#24
  | .ihlBytelen => 0#24
  | .ihlOptlen => 0#24
  | .ihlFromBytelen => 0#24
  | .tosRaw => 0#24
  | .tosParse off => BitVec.ofNat 24 off
  | .tosSer => 0#24
  | .tosPack prec ld ht hr => BitVec.ofNat 24 (tosLanes prec ld ht hr)
  | .tosUnpack => 0#24
  | .precRaw => 0#24
  | .precParse off => BitVec.ofNat 24 off
  | .precSer => 0#24
  | .tlenRaw => 0#24
  | .tlenParse off => BitVec.ofNat 24 off
  | .tlenSer => 0#24
  | .identRaw => 0#24
  | .identParse off => BitVec.ofNat 24 off
  | .identSer => 0#24
  | .flagsRaw => 0#24
  | .flagsParse off => BitVec.ofNat 24 off
  | .flagsSer => 0#24
  | .flagsPack df mf => BitVec.ofNat 24 (flagLanes df mf)
  | .flagsUnpack => 0#24
  | .foffRaw => 0#24
  | .foffParse off => BitVec.ofNat 24 off
  | .foffSer => 0#24
  | .ttlRaw => 0#24
  | .ttlParse off => BitVec.ofNat 24 off
  | .ttlSer => 0#24
  | .ttlExpired => 0#24
  | .ttlDec => 0#24
  | .protoRaw => 0#24
  | .protoParse off => BitVec.ofNat 24 off
  | .protoSer => 0#24
  | .hcsumRaw => 0#24
  | .hcsumParse off => BitVec.ofNat 24 off
  | .hcsumSer => 0#24
  | .addrRaw => 0#24
  | .addrOctets => 0#24
  | .addrParseBin off => BitVec.ofNat 24 off
  | .addrSerBin => 0#24
  | .addrParseText off => BitVec.ofNat 24 off
  | .addrFormatText => 0#24
  | .addrClass => 0#24
  | .csumCompute off => BitVec.ofNat 24 off
  | .csumVerify off => BitVec.ofNat 24 off
  | .cmpRaw => 0#24
  | .obufClear => 0#24

/-- The word of a command: `(OPCODE << 24) | IMM` (`30_encoding.md` R111). Every command is one
word (R100, R109). -/
def encode (i : Instr) : Word := i.opcode ++ i.imm

/-- What the decoder reads from a word whose bits are `w`, numbered as spec/opcode_table.json
numbers them: bit 0 is the least significant bit of the 32-bit command word. DEDUCED (log 16,
safe): a command word has no bytes (`20_memory.md` R75), and every command is 32 bits (R100), so a
value that needs more bits is no command. -/
def decodeTableWord (nbits w : Nat) : Option Instr :=
  if w % 2 ^ nbits < 2 ^ 32 then
    match decode (BitVec.ofNat 32 (w % 2 ^ nbits)) with
    | .ok i => some i
    | .error _ => none
  else none

end Sys2Proof
end

