-- ==== Sys2Proof/Config.lean ====
section
/-! DEFINITION. What is fixed for one instance of the codec (`00_scope.md` R6, R7;
`20_memory.md` R70), and the free values the spec leaves open (`93_implementation_defined.md` U1). -/

namespace Sys2Proof

/-- The parameters of a model instance: configuration, not state (`10_state.md` R31).
`base` is the platform's CODEC_BASE, which the spec leaves OPEN (`20_memory.md` R70).
DESIGN CHOICE (log 1, safe): State carries the record, so that one step function serves every
parameter value; no step changes it. -/
structure Config where
  base     : Nat
  ibufSize : Nat
  obufSize : Nat
  deriving DecidableEq, Repr

/-- The constraints on the buffer sizes (`00_scope.md` R6, R7). -/
def Config.ok (c : Config) : Bool :=
  decide (60 ≤ c.ibufSize) && decide (c.ibufSize ≤ 4096) &&
    decide (16 ≤ c.obufSize) && decide (c.obufSize ≤ 4096)

/-- The default sizes of `00_scope.md` R6 and R7.
DESIGN CHOICE (log 1, safe): base 0, since the spec gives CODEC_BASE no value. -/
def Config.default : Config := { base := 0, ibufSize := 64, obufSize := 64 }

/-- Free value (log 2, safe): byte `i` of IBUF after the `r`-th reset, as long as nothing has
written it (`10_state.md` R41, U1). No body: nothing can be proved about it. -/
opaque Config.ibufDraw (r i : Nat) : Byte

/-- Free value (log 2, safe): byte `i` of OBUF after the `r`-th reset, as long as nothing has
written it (`10_state.md` R42, U1). No body: nothing can be proved about it. -/
opaque Config.obufDraw (r i : Nat) : Byte

end Sys2Proof
end

