-- ==== Sys2Proof/Machine/State.lean ====
section
/-! DEFINITION. The codec's state as plain data (`10_state.md` R30), the accesses a host can make,
the ways a step can stop, and the state after reset (`70_reset_and_hazards.md` R600). -/

namespace Sys2Proof.Machine

/-- The codec has no fault: "No behaviour of the codec is a `fault` or `stuck`"
(`93_implementation_defined.md` section 1); every error is a status code (`60_exceptions.md` R503).
DEDUCED (log 14, safe): the type has no constructor, so no step can answer a fault. -/
inductive Fault where
  deriving DecidableEq, Repr

/-- Why a step is refused. Each of these is safe: no claim can be proved about what follows. -/
inductive Refusal where
  /-- Raised by an arm of `exec` whose command has no meaning yet. Safe. -/
  | notModelled (mnemonic : String)
  /-- Raised by a host access outside the interface: a width, an alignment or an address that
  `20_memory.md` R72 gives no meaning (U2). Safe. -/
  | outsideInterface
  /-- Raised by an access of any agent but the one host (`60_exceptions.md` R511, U3). Safe. -/
  | secondAgent
  deriving DecidableEq, Repr

/-- Who makes an access: the one host (`20_memory.md` R81), or any other agent. -/
inductive Agent where
  | host | other
  deriving DecidableEq, Repr

/-- What an access does. `otherWidth` is an access of any width but 8 and 32 bits
(`20_memory.md` R72). -/
inductive AccessKind where
  | read32
  | write32 (v : Word)
  | read8
  | write8 (b : Byte)
  | otherWidth
  deriving DecidableEq, Repr

/-- One access at a platform address; the codec's offset 0 is at `Config.base`
(`20_memory.md` R70). -/
structure Access where
  agent : Agent
  addr  : Nat
  kind  : AccessKind
  deriving DecidableEq, Repr

/-- What can happen to the codec: a host access, or the platform's reset, which falls between two
accesses (`70_reset_and_hazards.md` R600). -/
inductive Event where
  | access (a : Access)
  | reset
  deriving DecidableEq, Repr

/-- A value a host read returned (`70_reset_and_hazards.md` R616): a register's word, or a byte of a
buffer (`20_memory.md` R72). -/
inductive ReadValue where
  | word (w : Word)
  | byte (b : Byte)
  deriving DecidableEq, Repr

/-- The bytes of a buffer written since reset, as (index, byte) pairs with indices strictly rising.
An index that is not listed reads as its reset draw (log 2). -/
abbrev Memory := List Host.Cell

/-- `cmd` to `olen` are the nine registers, `ibuf` and `obuf` the two byte arrays: all the state
there is (`10_state.md` R30). `config` is the instance's configuration (R31, log 1). The model's own
fields: `pending` holds the events to come, oldest first (log 4); `returned` the values reads
returned, oldest first (`70_reset_and_hazards.md` R616, log 6); `resets` counts the resets, to tell
the draws of one reset from those of another (U1, log 3). -/
structure State where
  config   : Config
  cmd      : Word
  status   : Word
  d0       : Word
  d1       : Word
  dout     : Word
  eval     : Word
  epos     : Word
  ilen     : Word
  olen     : Word
  ibuf     : Memory
  obuf     : Memory
  pending  : List Event
  returned : List ReadValue
  resets   : Nat
  deriving DecidableEq, Repr

/-- The reset values of `70_reset_and_hazards.md` R600: every register 0 but STATUS, whose CODE is 15
(IDLE), and no buffer byte written. DESIGN CHOICE (logs 3, 4, 6): the model's own fields are empty,
and no reset has been counted. -/
def State.resetWith (c : Config) : State where
  config   := c
  cmd      := 0#32
  status   := 15#32
  d0       := 0#32
  d1       := 0#32
  dout     := 0#32
  eval     := 0#32
  epos     := 0#32
  ilen     := 0#32
  olen     := 0#32
  ibuf     := []
  obuf     := []
  pending  := []
  returned := []
  resets   := 0

/-- The codec right after reset, with the default parameters (`00_scope.md` R6, R7; log 1). -/
def State.reset : State := State.resetWith Config.default

end Sys2Proof.Machine
end

