-- ==== Sys2Proof/Machine/Flags.lean ====
section
/-! DEFINITION. The condition results. STATUS.CODE is the codec's only condition indicator
(`10_state.md` R44); CMP_RAW and ADDR_CLASS answer condition bits in DOUT (`46_control.md` R480,
`44_address.md` R406). -/

namespace Sys2Proof.Machine

/-- The outcome codes a command can write (`60_exceptions.md` R500). Code 14 is reserved and 15
(IDLE) is written by reset only, so neither is a constructor. -/
inductive Code where
  | ok
  | empty
  | insufficientBytes
  | tooSmall
  | reservedBitSet
  | valueOutOfRange
  | invalidFormat
  | invalidCharacter
  | octetOutOfRange
  | leadingZero
  | noValue
  | operandTooWide
  | bufferFull
  | illegalCommand
  deriving DecidableEq, Repr

/-- The code numbers (`60_exceptions.md` R500). -/
def Code.number : Code → BitVec 4
  | .ok                => 0
  | .empty             => 1
  | .insufficientBytes => 2
  | .tooSmall          => 3
  | .reservedBitSet    => 4
  | .valueOutOfRange   => 5
  | .invalidFormat     => 6
  | .invalidCharacter  => 7
  | .octetOutOfRange   => 8
  | .leadingZero       => 9
  | .noValue           => 10
  | .operandTooWide    => 11
  | .bufferFull        => 12
  | .illegalCommand    => 13

/-- STATUS with CODE in bits 3:0 and the reserved bits 31:4 at 0 (`10_state.md` R35). -/
def statusWord (c : Code) : Word := c.number.setWidth 32

/-- STATUS.CODE (`10_state.md` R35). -/
def State.code (s : State) : BitVec 4 := s.status.extractLsb' 0 4

/-- CMP_RAW's result: EQ in bit 0, LT in bit 1, GT in bit 2, unsigned (`46_control.md` R480). -/
def compareLanes (x y : Word) : Nat :=
  (if x.toNat = y.toNat then 1 else 0) ||| ((if x.toNat < y.toNat then 1 else 0) <<< 1) |||
    ((if y.toNat < x.toNat then 1 else 0) <<< 2)

/-- The class code of a first octet: A = 0 to E = 4 (`44_address.md` R406). -/
def classCode (a : Nat) : Nat :=
  if a ≤ 127 then 0 else if a ≤ 191 then 1 else if a ≤ 223 then 2 else if a ≤ 239 then 3 else 4

/-- ADDR_CLASS's result: the class code in bits 2:0, multicast in bit 8, reserved in bit 9
(`44_address.md` R406). -/
def classLanes (a : Nat) : Nat :=
  let cls := classCode a
  cls ||| ((if cls = 3 then 1 else 0) <<< 8) ||| ((if cls = 4 then 1 else 0) <<< 9)

end Sys2Proof.Machine
end

