-- ==== Sys2Proof/Machine/Ops.lean ====
section
/-! DEFINITION. The named operations over the buffers and the registers: reading and writing a
byte, `View`, `Append`, the two outcomes `succeed` and `raise` (which is what the codec has in place
of an exception: it returns from nothing, `60_exceptions.md` R503), and the platform's reset. -/

namespace Sys2Proof.Machine

/-- The byte written at an index since reset, if there is one. -/
def Memory.find : Memory → Nat → Option Byte
  | [], _ => none
  | (a', b) :: m, a => if a = a' then some b else Memory.find m a

/-- Write a byte at an index; the indices stay strictly rising. -/
def Memory.store : Memory → Nat → Byte → Memory
  | [], a, b => [(a, b)]
  | (a', b') :: m, a, b =>
    if a < a' then (a, b) :: (a', b') :: m
    else if a = a' then (a, b) :: m
    else (a', b') :: Memory.store m a b

/-- Write the bytes of `L` at `a`, `a + 1`, and so on (`20_memory.md` R79). -/
def Memory.storeList : Memory → Nat → List Byte → Memory
  | m, _, [] => m
  | m, a, b :: L => Memory.storeList (Memory.store m a b) (a + 1) L

/-- The canonical form: indices strictly rising. An unlisted index reads as a free draw, which no
byte can be shown equal to, so no listed entry repeats what an unlisted index reads as (log 2). -/
abbrev Memory.wf (m : Memory) : Prop := m.Pairwise (fun x y => x.1 < y.1)

/-- Every listed index is below `n`. -/
abbrev Memory.below (m : Memory) (n : Nat) : Prop := ∀ x ∈ m, x.1 < n

/-- IBUF[i]: the byte last written there, or the reset draw (`10_state.md` R41, U1). -/
def State.ibufByte (s : State) (i : Nat) : Byte :=
  (Memory.find s.ibuf i).getD (Config.ibufDraw s.resets i)

/-- OBUF[i]: the byte last appended there, or the reset draw (`10_state.md` R42, U1). -/
def State.obufByte (s : State) (i : Nat) : Byte :=
  (Memory.find s.obuf i).getD (Config.obufDraw s.resets i)

/-- `View(off)`: the bytes IBUF[off .. ILEN-1], or none when `off >= ILEN` (`20_memory.md` R76). -/
def State.view (s : State) (off : Nat) : List Byte :=
  (List.range (s.ilen.toNat - off)).map (fun i => s.ibufByte (off + i))

/-- What a `raise` reports: its code, its value payload and its position payload
(`60_exceptions.md` R501). -/
structure Raise where
  code : Code
  val  : Nat
  pos  : Nat
  deriving DecidableEq, Repr

/-- `succeed(v)` (`60_exceptions.md` R502). -/
def State.succeed (s : State) (v : Nat) : State :=
  { s with status := statusWord .ok, dout := BitVec.ofNat 32 v, eval := 0#32, epos := 0#32 }

/-- `raise Code(val, pos)` (`60_exceptions.md` R501): the one way an error is taken. EPOS holds 16
bits of position (`10_state.md` R37; log 13). -/
def State.raise (s : State) (r : Raise) : State :=
  { s with
    status := statusWord r.code
    dout   := 0#32
    eval   := BitVec.ofNat 32 r.val
    epos   := (BitVec.ofNat 16 r.pos).setWidth 32 }

/-- A command that ends in `succeed(v)` or in a `raise` (`00_scope.md` R14). -/
def State.conclude (s : State) : Except Raise Nat → State
  | .ok v => s.succeed v
  | .error r => s.raise r

/-- `Append(L)`: all of L and the new OLEN, or BUFFER_FULL(len(L), 0) and nothing
(`20_memory.md` R79). -/
def State.append (s : State) (L : List Byte) : Except Raise State :=
  if s.config.obufSize < s.olen.toNat + L.length then .error ⟨.bufferFull, L.length, 0⟩
  else .ok { s with
    obuf := Memory.storeList s.obuf s.olen.toNat L
    olen := BitVec.ofNat 32 (s.olen.toNat + L.length) }

/-- The end of a serializing command: `Append(L)`, then `succeed(len(L))`
(`41_validated_fields.md` R202). -/
def State.emit (s : State) : Except Raise (List Byte) → State
  | .error r => s.raise r
  | .ok L =>
    match s.append L with
    | .error r => s.raise r
    | .ok s' => s'.succeed L.length

/-- `OLEN <- 0`; the bytes of OBUF stay (`46_control.md` R481). -/
def State.clearOutput (s : State) : State := { s with olen := 0#32 }

/-- The platform's reset (`70_reset_and_hazards.md` R600): every piece of state gets its reset value,
the buffers get new draws, the configuration stays. What the host has still to do and what it has
read are not the codec's, so they stay (log 7). -/
def State.platformReset (s : State) : State :=
  { State.resetWith s.config with
    pending := s.pending, returned := s.returned, resets := s.resets + 1 }

/-- The host's read returns `v`; a read has no other effect (`20_memory.md` R80). -/
def State.answer (s : State) (v : ReadValue) : State := { s with returned := s.returned ++ [v] }

end Sys2Proof.Machine
end

