-- ==== Sys2Proof/Machine/Operands.lean ====
section
/-! DEFINITION. The field types with their checks (`10_state.md` R46 to R58), the operand forms
(`30_encoding.md` R105, `20_memory.md` R76), the wire positions of the fields, and the shapes the
field commands share (`41_validated_fields.md` R200 to R202, `42_unvalidated_fields.md` R300). -/

namespace Sys2Proof.Machine

/-- The eleven header-field types and the address (`00_scope.md` R2). -/
inductive Field where
  | version | ihl | tos | prec | tlen | ident | flags | foff | ttl | proto | hcsum | addr
  deriving DecidableEq, Repr

/-- SW(F) (`10_state.md` R46). -/
def Field.storageWidth : Field → Nat
  | .version | .ihl | .tos | .prec | .flags | .ttl | .proto => 8
  | .tlen | .ident | .foff | .hcsum => 16
  | .addr => 32

/-- `Check_F(v)` (`10_state.md` R47 to R58): the checks run in the order written and never change
the value. -/
def Field.check (f : Field) (v : Nat) : Except Raise Nat :=
  match f with
  | .version => if 15 < v then .error ⟨.valueOutOfRange, v, 0⟩ else .ok v
  | .ihl =>
    if v < 5 then .error ⟨.tooSmall, v, 0⟩
    else if 15 < v then .error ⟨.valueOutOfRange, v, 0⟩ else .ok v
  | .tos => if v &&& 0b11 ≠ 0 then .error ⟨.reservedBitSet, v, 0⟩ else .ok v
  | .prec => if 7 < v then .error ⟨.valueOutOfRange, v, 0⟩ else .ok v
  | .tlen => if v < 20 then .error ⟨.tooSmall, v, 0⟩ else .ok v
  | .flags =>
    if 7 < v then .error ⟨.valueOutOfRange, v, 0⟩
    else if v &&& 0b100 ≠ 0 then .error ⟨.reservedBitSet, v, 0⟩ else .ok v
  | .foff => if 8191 < v then .error ⟨.valueOutOfRange, v, 0⟩ else .ok v
  | .ident | .ttl | .proto | .hcsum | .addr => .ok v

/-- `Operand(F)`: D0 as a raw value of F, or OPERAND_TOO_WIDE(D0, 0) (`30_encoding.md` R105). -/
def State.operand (s : State) (f : Field) : Except Raise Nat :=
  if 2 ^ f.storageWidth ≤ s.d0.toNat then .error ⟨.operandTooWide, s.d0.toNat, 0⟩
  else .ok s.d0.toNat

/-- `Operand(F)` and then `Check_F` (`41_validated_fields.md` R200). -/
def State.validated (s : State) (f : Field) : Except Raise Nat :=
  match s.operand f with
  | .error r => .error r
  | .ok v => f.check v

/-- Bit i of v (`00_scope.md` R9). -/
def bitOf (v i : Nat) : Nat := (v >>> i) &&& 1

/-- v[i+7:i], the byte of v that starts at bit i (`00_scope.md` R9). -/
def octetOf (v i : Nat) : Nat := (v >>> i) &&& 0xFF

/-- A value below 256 as a byte (`00_scope.md` R10: the result is truncated to its destination). -/
def toByte (v : Nat) : Byte := BitVec.ofNat 8 v

/-- A 16-bit wire value, most significant byte first (`20_memory.md` R74). -/
def be16 (b0 b1 : Byte) : Nat := (b0.toNat <<< 8) ||| b1.toNat

/-- A 32-bit value of four octets, the first the most significant (`20_memory.md` R74,
`10_state.md` R58). -/
def be32 (a b c d : Nat) : Nat := (a <<< 24) ||| (b <<< 16) ||| (c <<< 8) ||| d

/-- The two wire bytes of a 16-bit value (`20_memory.md` R74). -/
def wire16 (v : Nat) : List Byte := [toByte (v >>> 8), toByte (v &&& 0xFF)]

/-- The four wire bytes of an address (`44_address.md` R403). -/
def wire32 (v : Nat) : List Byte :=
  [toByte (octetOf v 24), toByte (octetOf v 16), toByte (octetOf v 8), toByte (octetOf v 0)]

/-- The wire bytes of a field's value, every bit outside the field 0 (`41_validated_fields.md` R202,
R212, R217, R227, R232, R237, R242, R247; `42_unvalidated_fields.md` R303, R312, R317, R322;
`44_address.md` R403). -/
def Field.wire : Field → Nat → List Byte
  | .version, v => [toByte (v <<< 4)]
  | .ihl, v => [toByte v]
  | .prec, v => [toByte (v <<< 5)]
  | .flags, v => [toByte (v <<< 5)]
  | .tos, v => [toByte v]
  | .ttl, v => [toByte v]
  | .proto, v => [toByte v]
  | .tlen, v => wire16 v
  | .foff, v => wire16 v
  | .ident, v => wire16 v
  | .hcsum, v => wire16 v
  | .addr, v => wire32 v

/-- The field's bits of the wire value its bytes hold, before the check (`41_validated_fields.md` R211,
R216, R226, R231, R236, R241, R246; `42_unvalidated_fields.md` R302, R311, R316, R321). -/
def Field.extract : Field → Nat → Nat
  | .version, v => v >>> 4
  | .ihl, v => v &&& 0x0F
  | .prec, v => v >>> 5
  | .flags, v => v >>> 5
  | .foff, v => v &&& 0x1FFF
  | .tos, v => v
  | .ttl, v => v
  | .proto, v => v
  | .tlen, v => v
  | .ident, v => v
  | .hcsum, v => v
  | .addr, v => v

/-- A parse of a one-byte field: EMPTY, or the check of the bits of view byte 0; later bytes are
ignored (`41_validated_fields.md` R201, `20_memory.md` R78). -/
def parseByte (f : Field) : List Byte → Except Raise Nat
  | [] => .error ⟨.empty, 0, 0⟩
  | b :: _ => f.check (f.extract b.toNat)

/-- A parse of a 16-bit field: EMPTY, INSUFFICIENT_BYTES(1, 0), or the check of the bits of view
bytes 0 and 1 (`41_validated_fields.md` R201). -/
def parsePair (f : Field) : List Byte → Except Raise Nat
  | [] => .error ⟨.empty, 0, 0⟩
  | [_] => .error ⟨.insufficientBytes, 1, 0⟩
  | b0 :: b1 :: _ => f.check (f.extract (be16 b0 b1))

/-- A `_RAW` command: validate D0 (`41_validated_fields.md` R200). -/
def State.rawCommand (s : State) (f : Field) : State := s.conclude (s.validated f)

/-- A `_SER` command: validate D0, then append its wire bytes (`41_validated_fields.md` R202). -/
def State.serCommand (s : State) (f : Field) : State :=
  s.emit ((s.validated f).map f.wire)

/-- A `_PARSE` command of a one-byte field. -/
def State.parseByteCommand (s : State) (f : Field) (off : Nat) : State :=
  s.conclude (parseByte f (s.view off))

/-- A `_PARSE` command of a 16-bit field. -/
def State.parsePairCommand (s : State) (f : Field) (off : Nat) : State :=
  s.conclude (parsePair f (s.view off))

end Sys2Proof.Machine
end

