-- ==== Sys2Proof/Machine/Address.lean ====
section
/-! DEFINITION. The IPv4 address (`44_address.md`): construction, binary and dotted-decimal forms,
classification. -/

namespace Sys2Proof.Machine

/-- ADDR_RAW (R400): `Operand(ADDR)` never fails. -/
def execAddrRaw (s : State) : Host.Outcome State Fault Refusal := .next (s.rawCommand .addr)

/-- The address of the four byte lanes of D0 in argument order: a = v[7:0] up to d = v[31:24]
(R401). -/
def addressOfLanes (v : Nat) : Nat := be32 (octetOf v 0) (octetOf v 8) (octetOf v 16) (octetOf v 24)

/-- ADDR_OCTETS (R401). -/
def execAddrOctets (s : State) : Host.Outcome State Fault Refusal :=
  .next (s.succeed (addressOfLanes s.d0.toNat))

/-- The big-endian address of a view's first four bytes, or EMPTY, or INSUFFICIENT_BYTES(n, 0) for
n = 1, 2 or 3 (R402). -/
def parseQuad : List Byte → Except Raise Nat
  | [] => .error ⟨.empty, 0, 0⟩
  | a :: b :: c :: d :: _ => .ok (be32 a.toNat b.toNat c.toNat d.toNat)
  | short => .error ⟨.insufficientBytes, short.length, 0⟩

/-- ADDR_PARSE_BIN (R402). -/
def execAddrParseBin (off : Nat) (s : State) : Host.Outcome State Fault Refusal :=
  .next (s.conclude (parseQuad (s.view off)))

/-- ADDR_SER_BIN (R403). -/
def execAddrSerBin (s : State) : Host.Outcome State Fault Refusal := .next (s.serCommand .addr)

/-- What the text scan holds between two bytes (R404): `k` the octet position, `acc` the value of
the current digit run, `nd` its number of digits, `first` its first digit, `oct` the closed
octets. Local to one command (`00_scope.md` R15). -/
structure Scan where
  k     : Nat
  acc   : Nat
  nd    : Nat
  first : Nat
  oct   : List Nat
  deriving DecidableEq, Repr

/-- The scan before the first byte (R404). -/
def Scan.start : Scan := { k := 0, acc := 0, nd := 0, first := 0, oct := [] }

/-- `acc` times ten plus the digit, saturating at 0xFFFFFFFF (R411). -/
def saturatingStep (acc d : Nat) : Nat := min (acc * 10 + d) 0xFFFFFFFF

/-- `Close(k)`: at least one digit, then at most 255, then no leading zero (R412). -/
def Scan.close (st : Scan) : Except Raise Scan :=
  if st.nd = 0 then .error ⟨.invalidFormat, 0, st.k⟩
  else if 255 < st.acc then .error ⟨.octetOutOfRange, st.acc, st.k⟩
  else if 2 ≤ st.nd ∧ st.first = 0 then .error ⟨.leadingZero, st.acc, st.k⟩
  else .ok { st with oct := st.oct ++ [st.acc] }

/-- One byte of the scan: a digit, a period, or INVALID_CHARACTER(c, k) (R404, R410). -/
def Scan.byte (st : Scan) (c : Byte) : Except Raise Scan :=
  if 0x30 ≤ c.toNat ∧ c.toNat ≤ 0x39 then
    .ok { st with
      first := if st.nd = 0 then c.toNat - 0x30 else st.first
      acc   := saturatingStep st.acc (c.toNat - 0x30)
      nd    := st.nd + 1 }
  else if c.toNat = 0x2E then
    (st.close).map (fun st' => { st' with k := st'.k + 1, acc := 0, nd := 0 })
  else .error ⟨.invalidCharacter, c.toNat, st.k⟩

/-- Scan every byte in order, then close the final octet (R404, R413). -/
def Scan.run : Scan → List Byte → Except Raise Scan
  | st, [] => st.close
  | st, c :: cs =>
    match st.byte c with
    | .error r => .error r
    | .ok st' => Scan.run st' cs

/-- The address of exactly four octets, or INVALID_FORMAT(count, 0) (R404, R413). -/
def addressOfOctets : List Nat → Except Raise Nat
  | [a, b, c, d] => .ok (be32 a b c d)
  | oct => .error ⟨.invalidFormat, oct.length, 0⟩

/-- The dotted-decimal parse of a whole view (R404). -/
def parseText (text : List Byte) : Except Raise Nat :=
  match text with
  | [] => .error ⟨.empty, 0, 0⟩
  | c :: cs => (Scan.run Scan.start (c :: cs)).bind (fun st => addressOfOctets st.oct)

/-- ADDR_PARSE_TEXT (R404). -/
def execAddrParseText (off : Nat) (s : State) : Host.Outcome State Fault Refusal :=
  .next (s.conclude (parseText (s.view off)))

/-- `Dec(n)`: the decimal digits of an octet, with no leading zero (R405). -/
def decimal (n : Nat) : List Byte :=
  if n < 10 then [toByte (0x30 + n)]
  else if n < 100 then [toByte (0x30 + n / 10), toByte (0x30 + n % 10)]
  else [toByte (0x30 + n / 100), toByte (0x30 + (n / 10) % 10), toByte (0x30 + n % 10)]

/-- The dotted-decimal text of an address (R405). -/
def addressText (v : Nat) : List Byte :=
  decimal (octetOf v 24) ++ [0x2E#8] ++ decimal (octetOf v 16) ++ [0x2E#8] ++
    decimal (octetOf v 8) ++ [0x2E#8] ++ decimal (octetOf v 0)

/-- ADDR_FORMAT_TEXT (R405). -/
def execAddrFormatText (s : State) : Host.Outcome State Fault Refusal :=
  .next (s.emit ((s.operand .addr).map addressText))

/-- ADDR_CLASS (R406): only D0[31:24] is read. -/
def execAddrClass (s : State) : Host.Outcome State Fault Refusal :=
  .next (s.conclude ((s.operand .addr).map (fun v => classLanes (octetOf v 24))))

end Sys2Proof.Machine
end

