-- ==== Sys2Proof/Machine/Checksum.lean ====
section
/-! DEFINITION. The one's-complement header checksum (`45_checksum.md`). -/

namespace Sys2Proof.Machine

/-- The exact sum of a view's 16-bit big-endian words; an odd final byte is a word with low byte 0
(R450, R451). -/
def wordSum : List Byte → Nat
  | [] => 0
  | [b] => b.toNat <<< 8
  | b0 :: b1 :: rest => be16 b0 b1 + wordSum rest

/-- One pass of the end-around carry (R452). -/
def foldPass (sum : Nat) : Nat := (sum &&& 0xFFFF) + (sum >>> 16)

/-- At most `fuel` passes, stopping once the value fits in 16 bits. -/
def foldWithin : Nat → Nat → Nat
  | 0, sum => sum
  | fuel + 1, sum => if 0xFFFF < sum then foldWithin fuel (foldPass sum) else sum

/-- `Fold(s)` (R452). Each pass strictly decreases a value above 0xFFFF, so `s` passes are enough
(DEDUCED, log 12, safe). -/
def fold (sum : Nat) : Nat := foldWithin sum sum

/-- CSUM_COMPUTE (R453): an empty view gives 0xFFFF. -/
def execCsumCompute (off : Nat) (s : State) : Host.Outcome State Fault Refusal :=
  .next (s.succeed (0xFFFF ^^^ fold (wordSum (s.view off))))

/-- CSUM_VERIFY (R454): the verdict is in DOUT, and CODE is OK for both verdicts. -/
def execCsumVerify (off : Nat) (s : State) : Host.Outcome State Fault Refusal :=
  .next (s.succeed (if fold (wordSum (s.view off)) = 0xFFFF then 1 else 0))

end Sys2Proof.Machine
end

