-- ==== Sys2Proof/Machine/Composition.lean ====
section
/-! DEFINITION. TypeOfService and Flags composition (`43_composition.md`). -/

namespace Sys2Proof.Machine

/-- The TypeOfService byte of its components; bits 1:0 are 0 (R351). -/
def packTos (prec : Nat) (ld ht hr : Bool) : Nat :=
  (prec <<< 5) ||| (ld.toNat <<< 4) ||| (ht.toNat <<< 3) ||| (hr.toNat <<< 2)

/-- The component lanes of a TypeOfService byte (R352). -/
def unpackTos (v : Nat) : Nat :=
  (v >>> 5) ||| (bitOf v 4 <<< 3) ||| (bitOf v 3 <<< 4) ||| (bitOf v 2 <<< 5)

/-- The Flags value of its components; bit 2 is 0 (R353). -/
def packFlags (df mf : Bool) : Nat := (df.toNat <<< 1) ||| mf.toNat

/-- The component lanes of a Flags value (R354). -/
def unpackFlags (v : Nat) : Nat := bitOf v 1 ||| (bitOf v 0 <<< 1)

/-- TOS_PACK (R351). -/
def execTosPack (prec : Nat) (ld ht hr : Bool) (s : State) : Host.Outcome State Fault Refusal :=
  .next (s.succeed (packTos prec ld ht hr))

/-- TOS_UNPACK (R352). -/
def execTosUnpack (s : State) : Host.Outcome State Fault Refusal :=
  .next (s.conclude ((s.validated .tos).map unpackTos))

/-- FLAGS_PACK (R353). -/
def execFlagsPack (df mf : Bool) (s : State) : Host.Outcome State Fault Refusal :=
  .next (s.succeed (packFlags df mf))

/-- FLAGS_UNPACK (R354). -/
def execFlagsUnpack (s : State) : Host.Outcome State Fault Refusal :=
  .next (s.conclude ((s.validated .flags).map unpackFlags))

end Sys2Proof.Machine
end

