-- ==== Sys2Proof/Machine/Control.lean ====
section
/-! DEFINITION. Comparison and buffer control (`46_control.md`). -/

namespace Sys2Proof.Machine

/-- CMP_RAW (R480): D0 and D1 are read whole, with no width check. -/
def execCmpRaw (s : State) : Host.Outcome State Fault Refusal :=
  .next (s.succeed (compareLanes s.d0 s.d1))

/-- OBUF_CLEAR (R481). -/
def execObufClear (s : State) : Host.Outcome State Fault Refusal := .next (s.clearOutput.succeed 0)

end Sys2Proof.Machine
end

