-- ==== Sys2Proof/Machine/UnvalidatedFields.lean ====
section
/-! DEFINITION. The commands of the fields whose check never fails (`42_unvalidated_fields.md`). -/

namespace Sys2Proof.Machine

/-- TTL_RAW (R301). -/
def execTtlRaw (s : State) : Host.Outcome State Fault Refusal := .next (s.rawCommand .ttl)

/-- TTL_PARSE (R302). -/
def execTtlParse (off : Nat) (s : State) : Host.Outcome State Fault Refusal :=
  .next (s.parseByteCommand .ttl off)

/-- TTL_SER (R303). -/
def execTtlSer (s : State) : Host.Outcome State Fault Refusal := .next (s.serCommand .ttl)

/-- TTL_EXPIRED (R304): only 0 is expired. -/
def execTtlExpired (s : State) : Host.Outcome State Fault Refusal :=
  .next (s.conclude ((s.operand .ttl).map (fun v => if v = 0 then 1 else 0)))

/-- The decrement of a TTL, or NO_VALUE(0, 0) at 0 (R305). -/
def ttlDecrement (v : Nat) : Except Raise Nat :=
  if v = 0 then .error ⟨.noValue, 0, 0⟩ else .ok (v - 1)

/-- TTL_DEC (R305). -/
def execTtlDec (s : State) : Host.Outcome State Fault Refusal :=
  .next (s.conclude ((s.operand .ttl).bind ttlDecrement))

/-- PROTO_RAW (R310). -/
def execProtoRaw (s : State) : Host.Outcome State Fault Refusal := .next (s.rawCommand .proto)

/-- PROTO_PARSE (R311). -/
def execProtoParse (off : Nat) (s : State) : Host.Outcome State Fault Refusal :=
  .next (s.parseByteCommand .proto off)

/-- PROTO_SER (R312). -/
def execProtoSer (s : State) : Host.Outcome State Fault Refusal := .next (s.serCommand .proto)

/-- IDENT_RAW (R315). -/
def execIdentRaw (s : State) : Host.Outcome State Fault Refusal := .next (s.rawCommand .ident)

/-- IDENT_PARSE (R316). -/
def execIdentParse (off : Nat) (s : State) : Host.Outcome State Fault Refusal :=
  .next (s.parsePairCommand .ident off)

/-- IDENT_SER (R317). -/
def execIdentSer (s : State) : Host.Outcome State Fault Refusal := .next (s.serCommand .ident)

/-- HCSUM_RAW (R320). -/
def execHcsumRaw (s : State) : Host.Outcome State Fault Refusal := .next (s.rawCommand .hcsum)

/-- HCSUM_PARSE (R321). -/
def execHcsumParse (off : Nat) (s : State) : Host.Outcome State Fault Refusal :=
  .next (s.parsePairCommand .hcsum off)

/-- HCSUM_SER (R322). -/
def execHcsumSer (s : State) : Host.Outcome State Fault Refusal := .next (s.serCommand .hcsum)

end Sys2Proof.Machine
end

