-- ==== Sys2Proof/Machine/ValidatedFields.lean ====
section
/-! DEFINITION. The commands of the fields whose check can fail (`41_validated_fields.md`). -/

namespace Sys2Proof.Machine

/-- VER_RAW (R210). -/
def execVerRaw (s : State) : Host.Outcome State Fault Refusal := .next (s.rawCommand .version)

/-- VER_PARSE (R211). -/
def execVerParse (off : Nat) (s : State) : Host.Outcome State Fault Refusal :=
  .next (s.parseByteCommand .version off)

/-- VER_SER (R212). -/
def execVerSer (s : State) : Host.Outcome State Fault Refusal := .next (s.serCommand .version)

/-- IHL_RAW (R215). -/
def execIhlRaw (s : State) : Host.Outcome State Fault Refusal := .next (s.rawCommand .ihl)

/-- IHL_PARSE (R216). -/
def execIhlParse (off : Nat) (s : State) : Host.Outcome State Fault Refusal :=
  .next (s.parseByteCommand .ihl off)

/-- IHL_SER (R217). -/
def execIhlSer (s : State) : Host.Outcome State Fault Refusal := .next (s.serCommand .ihl)

/-- The header length in bytes of a legal IHL (R218). -/
def ihlByteLength (v : Nat) : Nat := v * 4

/-- IHL_BYTELEN (R218). -/
def execIhlBytelen (s : State) : Host.Outcome State Fault Refusal :=
  .next (s.conclude ((s.validated .ihl).map ihlByteLength))

/-- IHL_OPTLEN (R219): not negative, because the check leaves v >= 5. -/
def execIhlOptlen (s : State) : Host.Outcome State Fault Refusal :=
  .next (s.conclude ((s.validated .ihl).map (fun v => v * 4 - 20)))

/-- The IHL of a header byte length, or NO_VALUE(n, 0) (R220). -/
def ihlOfByteLength (n : Nat) : Except Raise Nat :=
  if n % 4 ≠ 0 ∨ n < 20 ∨ 60 < n then .error ⟨.noValue, n, 0⟩ else .ok (n / 4)

/-- IHL_FROM_BYTELEN (R220): D0 is read whole, with no width check. -/
def execIhlFromBytelen (s : State) : Host.Outcome State Fault Refusal :=
  .next (s.conclude (ihlOfByteLength s.d0.toNat))

/-- PREC_RAW (R225). -/
def execPrecRaw (s : State) : Host.Outcome State Fault Refusal := .next (s.rawCommand .prec)

/-- PREC_PARSE (R226). -/
def execPrecParse (off : Nat) (s : State) : Host.Outcome State Fault Refusal :=
  .next (s.parseByteCommand .prec off)

/-- PREC_SER (R227). -/
def execPrecSer (s : State) : Host.Outcome State Fault Refusal := .next (s.serCommand .prec)

/-- TLEN_RAW (R230). -/
def execTlenRaw (s : State) : Host.Outcome State Fault Refusal := .next (s.rawCommand .tlen)

/-- TLEN_PARSE (R231). -/
def execTlenParse (off : Nat) (s : State) : Host.Outcome State Fault Refusal :=
  .next (s.parsePairCommand .tlen off)

/-- TLEN_SER (R232). -/
def execTlenSer (s : State) : Host.Outcome State Fault Refusal := .next (s.serCommand .tlen)

/-- FLAGS_RAW (R235). -/
def execFlagsRaw (s : State) : Host.Outcome State Fault Refusal := .next (s.rawCommand .flags)

/-- FLAGS_PARSE (R236). -/
def execFlagsParse (off : Nat) (s : State) : Host.Outcome State Fault Refusal :=
  .next (s.parseByteCommand .flags off)

/-- FLAGS_SER (R237). -/
def execFlagsSer (s : State) : Host.Outcome State Fault Refusal := .next (s.serCommand .flags)

/-- FOFF_RAW (R240). -/
def execFoffRaw (s : State) : Host.Outcome State Fault Refusal := .next (s.rawCommand .foff)

/-- FOFF_PARSE (R241). -/
def execFoffParse (off : Nat) (s : State) : Host.Outcome State Fault Refusal :=
  .next (s.parsePairCommand .foff off)

/-- FOFF_SER (R242). -/
def execFoffSer (s : State) : Host.Outcome State Fault Refusal := .next (s.serCommand .foff)

/-- TOS_RAW (R245). -/
def execTosRaw (s : State) : Host.Outcome State Fault Refusal := .next (s.rawCommand .tos)

/-- TOS_PARSE (R246): the whole of view byte 0 (`90_conflicts.md` C1). -/
def execTosParse (off : Nat) (s : State) : Host.Outcome State Fault Refusal :=
  .next (s.parseByteCommand .tos off)

/-- TOS_SER (R247). -/
def execTosSer (s : State) : Host.Outcome State Fault Refusal := .next (s.serCommand .tos)

end Sys2Proof.Machine
end

