-- ==== Sys2Proof/Machine/Dispatch.lean ====
section
/-! DEFINITION. One arm per command, each a direct call of its meaning (`30_encoding.md` R110
"perform the rule named for op"). -/

namespace Sys2Proof.Machine

def exec (i : Instr) (s : State) : Host.Outcome State Fault Refusal :=
  match i with
  | .verRaw => Sys2Proof.Machine.execVerRaw s
  | .verParse off => Sys2Proof.Machine.execVerParse off s
  | .verSer => Sys2Proof.Machine.execVerSer s
  | .ihlRaw => Sys2Proof.Machine.execIhlRaw s
  | .ihlParse off => Sys2Proof.Machine.execIhlParse off s
  | .ihlSer => Sys2Proof.Machine.execIhlSer s
  | .ihlBytelen => Sys2Proof.Machine.execIhlBytelen s
  | .ihlOptlen => Sys2Proof.Machine.execIhlOptlen s
  | .ihlFromBytelen => Sys2Proof.Machine.execIhlFromBytelen s
  | .tosRaw => Sys2Proof.Machine.execTosRaw s
  | .tosParse off => Sys2Proof.Machine.execTosParse off s
  | .tosSer => Sys2Proof.Machine.execTosSer s
  | .tosPack prec ld ht hr => Sys2Proof.Machine.execTosPack prec ld ht hr s
  | .tosUnpack => Sys2Proof.Machine.execTosUnpack s
  | .precRaw => Sys2Proof.Machine.execPrecRaw s
  | .precParse off => Sys2Proof.Machine.execPrecParse off s
  | .precSer => Sys2Proof.Machine.execPrecSer s
  | .tlenRaw => Sys2Proof.Machine.execTlenRaw s
  | .tlenParse off => Sys2Proof.Machine.execTlenParse off s
  | .tlenSer => Sys2Proof.Machine.execTlenSer s
  | .identRaw => Sys2Proof.Machine.execIdentRaw s
  | .identParse off => Sys2Proof.Machine.execIdentParse off s
  | .identSer => Sys2Proof.Machine.execIdentSer s
  | .flagsRaw => Sys2Proof.Machine.execFlagsRaw s
  | .flagsParse off => Sys2Proof.Machine.execFlagsParse off s
  | .flagsSer => Sys2Proof.Machine.execFlagsSer s
  | .flagsPack df mf => Sys2Proof.Machine.execFlagsPack df mf s
  | .flagsUnpack => Sys2Proof.Machine.execFlagsUnpack s
  | .foffRaw => Sys2Proof.Machine.execFoffRaw s
  | .foffParse off => Sys2Proof.Machine.execFoffParse off s
  | .foffSer => Sys2Proof.Machine.execFoffSer s
  | .ttlRaw => Sys2Proof.Machine.execTtlRaw s
  | .ttlParse off => Sys2Proof.Machine.execTtlParse off s
  | .ttlSer => Sys2Proof.Machine.execTtlSer s
  | .ttlExpired => Sys2Proof.Machine.execTtlExpired s
  | .ttlDec => Sys2Proof.Machine.execTtlDec s
  | .protoRaw => Sys2Proof.Machine.execProtoRaw s
  | .protoParse off => Sys2Proof.Machine.execProtoParse off s
  | .protoSer => Sys2Proof.Machine.execProtoSer s
  | .hcsumRaw => Sys2Proof.Machine.execHcsumRaw s
  | .hcsumParse off => Sys2Proof.Machine.execHcsumParse off s
  | .hcsumSer => Sys2Proof.Machine.execHcsumSer s
  | .addrRaw => Sys2Proof.Machine.execAddrRaw s
  | .addrOctets => Sys2Proof.Machine.execAddrOctets s
  | .addrParseBin off => Sys2Proof.Machine.execAddrParseBin off s
  | .addrSerBin => Sys2Proof.Machine.execAddrSerBin s
  | .addrParseText off => Sys2Proof.Machine.execAddrParseText off s
  | .addrFormatText => Sys2Proof.Machine.execAddrFormatText s
  | .addrClass => Sys2Proof.Machine.execAddrClass s
  | .csumCompute off => Sys2Proof.Machine.execCsumCompute off s
  | .csumVerify off => Sys2Proof.Machine.execCsumVerify off s
  | .cmpRaw => Sys2Proof.Machine.execCmpRaw s
  | .obufClear => Sys2Proof.Machine.execObufClear s

end Sys2Proof.Machine
end

