-- ==== Sys2Proof/Machine/Bus.lean ====
section
/-! DEFINITION. What one host access does (`20_memory.md` R70 to R73, R80; `10_state.md` R32 to R42):
the address map, register and buffer accesses, and the CMD write that runs a command
(`30_encoding.md` R110). -/

namespace Sys2Proof.Machine

/-- The offsets of the registers (`10_state.md` section 2) and of the windows (`20_memory.md` R71). -/
abbrev Offset.cmd : Nat := 0x000
abbrev Offset.status : Nat := 0x004
abbrev Offset.d0 : Nat := 0x008
abbrev Offset.d1 : Nat := 0x00C
abbrev Offset.dout : Nat := 0x010
abbrev Offset.eval : Nat := 0x014
abbrev Offset.epos : Nat := 0x018
abbrev Offset.ilen : Nat := 0x01C
abbrev Offset.olen : Nat := 0x020
abbrev Offset.ibuf : Nat := 0x1000
abbrev Offset.obuf : Nat := 0x2000
abbrev Offset.last : Nat := 0x3000

/-- A host write of the word `w` to CMD: store it, decode it, perform its rule, all in one step
(`30_encoding.md` R110). An illegal word raises ILLEGAL_COMMAND(w, 0) (R107). -/
def State.commandWrite (s : State) (w : Word) : Host.Outcome State Fault Refusal :=
  match decode w with
  | .ok i => exec i { s with cmd := w }
  | .error _ => .next (State.raise { s with cmd := w } ⟨.illegalCommand, w.toNat, 0⟩)

/-- A 32-bit read at a register-window offset; a reserved offset reads 0 (`20_memory.md` R73). -/
def State.registerRead (s : State) (off : Nat) : Word :=
  if off = Offset.cmd then s.cmd
  else if off = Offset.status then s.status
  else if off = Offset.d0 then s.d0
  else if off = Offset.d1 then s.d1
  else if off = Offset.dout then s.dout
  else if off = Offset.eval then s.eval
  else if off = Offset.epos then s.epos
  else if off = Offset.ilen then s.ilen
  else if off = Offset.olen then s.olen
  else 0#32

/-- ILEN is WARL: a write of v stores min(v, IBUF_SIZE) (`10_state.md` R39). -/
def State.writeIlen (s : State) (v : Word) : State :=
  { s with ilen := BitVec.ofNat 32 (min v.toNat s.config.ibufSize) }

/-- A 32-bit write at a register-window offset; a write to a read-only register or a reserved offset
is ignored (`20_memory.md` R73). -/
def State.registerWrite (s : State) (off : Nat) (v : Word) : Host.Outcome State Fault Refusal :=
  if off = Offset.cmd then s.commandWrite v
  else if off = Offset.d0 then .next { s with d0 := v }
  else if off = Offset.d1 then .next { s with d1 := v }
  else if off = Offset.ilen then .next (s.writeIlen v)
  else .next s

/-- An 8-bit read of the IBUF window; beyond IBUF_SIZE it is 0 (`20_memory.md` R71, R73). -/
def State.ibufRead (s : State) (i : Nat) : Byte :=
  if i < s.config.ibufSize then s.ibufByte i else 0#8

/-- An 8-bit write of the IBUF window; beyond IBUF_SIZE it is ignored (`20_memory.md` R73). -/
def State.ibufWrite (s : State) (i : Nat) (b : Byte) : State :=
  if i < s.config.ibufSize then { s with ibuf := Memory.store s.ibuf i b } else s

/-- An 8-bit read of the OBUF window; beyond OBUF_SIZE it is 0 (`20_memory.md` R71, R73). -/
def State.obufRead (s : State) (i : Nat) : Byte :=
  if i < s.config.obufSize then s.obufByte i else 0#8

/-- The offset a platform address stands for, if it lies in the codec's window
(`20_memory.md` R70, R71). -/
def Config.offsetOf (c : Config) (addr : Nat) : Option Nat :=
  if c.base ≤ addr ∧ addr < c.base + Offset.last then some (addr - c.base) else none

/-- An access of the register window: 32 bits wide and aligned, or refused (`20_memory.md` R72). -/
def State.registerAccess (s : State) (off : Nat) : AccessKind → Host.Outcome State Fault Refusal
  | .read32 =>
    if off % 4 = 0 then .next (s.answer (.word (s.registerRead off))) else .refused .outsideInterface
  | .write32 v => if off % 4 = 0 then s.registerWrite off v else .refused .outsideInterface
  | .read8 | .write8 _ | .otherWidth => .refused .outsideInterface

/-- An access of the IBUF window: 8 bits wide, or refused (`20_memory.md` R72). -/
def State.ibufAccess (s : State) (i : Nat) : AccessKind → Host.Outcome State Fault Refusal
  | .read8 => .next (s.answer (.byte (s.ibufRead i)))
  | .write8 b => .next (s.ibufWrite i b)
  | .read32 | .write32 _ | .otherWidth => .refused .outsideInterface

/-- An access of the OBUF window: 8 bits wide, or refused; a write is ignored
(`20_memory.md` R72, R73). -/
def State.obufAccess (s : State) (i : Nat) : AccessKind → Host.Outcome State Fault Refusal
  | .read8 => .next (s.answer (.byte (s.obufRead i)))
  | .write8 _ => .next s
  | .read32 | .write32 _ | .otherWidth => .refused .outsideInterface

/-- One access. One of an agent other than the host is refused (`60_exceptions.md` R511), and so is
one outside the three windows (`20_memory.md` R72; log 8). -/
def State.perform (s : State) (a : Access) : Host.Outcome State Fault Refusal :=
  match a.agent with
  | .other => .refused .secondAgent
  | .host =>
    match Config.offsetOf s.config a.addr with
    | none => .refused .outsideInterface
    | some off =>
      if off < Offset.ibuf then s.registerAccess off a.kind
      else if off < Offset.obuf then s.ibufAccess (off - Offset.ibuf) a.kind
      else s.obufAccess (off - Offset.obuf) a.kind

/-- The next event: a host access, or the platform's reset (`70_reset_and_hazards.md` R600). -/
def State.handle (s : State) : Event → Host.Outcome State Fault Refusal
  | .access a => s.perform a
  | .reset => .next s.platformReset

/-- The host's write of a word to CMD, as an event (`30_encoding.md` R112 `cmd`). -/
def commandEvent (c : Config) (w : Word) : Event :=
  .access { agent := .host, addr := c.base + Offset.cmd, kind := .write32 w }

end Sys2Proof.Machine
end

