-- ==== Sys2Proof/Machine/Step.lean ====
section
/-! DEFINITION. One step of the codec: the next pending event is taken and handled, in one
indivisible step (`20_memory.md` R80, R81). -/

namespace Sys2Proof.Machine

/-- With no event pending the codec waits for host accesses and nothing changes
(`70_reset_and_hazards.md` R601; DEDUCED, log 5, safe). -/
def step (s : State) : Host.Outcome State Fault Refusal :=
  match s.pending with
  | [] => .next s
  | e :: rest => State.handle { s with pending := rest } e

/-- `s` with the host's write of the word `w` to CMD as the very next access: the codec fetches no
instructions, a command is the word written to CMD (`20_memory.md` R84; log 4). The bits of `w`
above `nbits` are dropped. -/
def State.withFetchWord (s : State) (nbits w : Nat) : State :=
  { s with pending := commandEvent s.config (BitVec.ofNat 32 (w % 2 ^ nbits)) :: s.pending }

end Sys2Proof.Machine
end

