-- ==== Sys2Proof/Machine/Assembler.lean ====
section
/-! DEFINITION. The host's side of the interface: command syntax (`30_encoding.md` R111), host
operations (R112), pseudo-operations (R113) and symbolic constants (R114), as the accesses they
stand for. The codec itself reads none of this. -/

namespace Sys2Proof.Machine

/-- The registers a program may write: CMD, D0, D1 or ILEN (R112). -/
inductive WriteReg where
  | cmd | d0 | d1 | ilen
  deriving DecidableEq, Repr

/-- The registers a program may read: every register (R112, `70_reset_and_hazards.md` R615). -/
inductive ReadReg where
  | cmd | status | d0 | d1 | dout | eval | epos | ilen | olen
  deriving DecidableEq, Repr

/-- The host operations (R112): `wr R, v`, `rd R`, `wrb i, b`, `rdb i`, `cmd <command>`. -/
inductive HostOp where
  | wr (r : WriteReg) (v : Word)
  | rd (r : ReadReg)
  | wrb (i : Nat) (b : Byte)
  | rdb (i : Nat)
  | cmd (i : Instr)
  deriving DecidableEq, Repr

/-- The register map (`10_state.md` section 2). -/
def WriteReg.offset : WriteReg → Nat
  | .cmd => Offset.cmd
  | .d0 => Offset.d0
  | .d1 => Offset.d1
  | .ilen => Offset.ilen

/-- The register map (`10_state.md` section 2). -/
def ReadReg.offset : ReadReg → Nat
  | .cmd => Offset.cmd
  | .status => Offset.status
  | .d0 => Offset.d0
  | .d1 => Offset.d1
  | .dout => Offset.dout
  | .eval => Offset.eval
  | .epos => Offset.epos
  | .ilen => Offset.ilen
  | .olen => Offset.olen

/-- The access of one host operation (R112; the offsets of `20_memory.md` R71). -/
def HostOp.event (c : Config) : HostOp → Event
  | .wr r v => .access { agent := .host, addr := c.base + r.offset, kind := .write32 v }
  | .rd r => .access { agent := .host, addr := c.base + r.offset, kind := .read32 }
  | .wrb i b => .access { agent := .host, addr := c.base + Offset.ibuf + i, kind := .write8 b }
  | .rdb i => .access { agent := .host, addr := c.base + Offset.obuf + i, kind := .read8 }
  | .cmd i => commandEvent c (encode i)

/-- `ldbuf i, b0 b1 .. bk` (R113). -/
def ldbuf : Nat → List Byte → List HostOp
  | _, [] => []
  | i, b :: bs => .wrb i b :: ldbuf (i + 1) bs

/-- `ldhdr b0 .. bk` (R113). -/
def ldhdr (bs : List Byte) : List HostOp := ldbuf 0 bs ++ [.wr .ilen (BitVec.ofNat 32 bs.length)]

/-- `ldtext "s"` (R113), with the characters of the string as their ASCII bytes. PRESUMED (log 17,
safe): the text is ASCII. -/
def ldtext (text : List Char) : List HostOp := ldhdr (text.map (fun ch => BitVec.ofNat 8 ch.toNat))

/-- `val R, v` is `wr R, v` (R113). -/
def val (r : WriteReg) (v : Word) : HostOp := .wr r v

/-- A host program from a state: its operations become the pending events, in order
(`70_reset_and_hazards.md` R616; log 4). -/
def State.withProgram (s : State) (p : List HostOp) : State :=
  { s with pending := s.pending ++ p.map (HostOp.event s.config) }

/-- The opcode number of each mnemonic (R106). -/
def mnemonics : List (String × Nat) :=
  [("VER_RAW", 0x10), ("VER_PARSE", 0x11), ("VER_SER", 0x12), ("IHL_RAW", 0x14),
   ("IHL_PARSE", 0x15), ("IHL_SER", 0x16), ("IHL_BYTELEN", 0x17), ("IHL_OPTLEN", 0x18),
   ("IHL_FROM_BYTELEN", 0x19)] ++
  [("TOS_RAW", 0x20), ("TOS_PARSE", 0x21), ("TOS_SER", 0x22), ("TOS_PACK", 0x23),
   ("TOS_UNPACK", 0x24), ("PREC_RAW", 0x28), ("PREC_PARSE", 0x29), ("PREC_SER", 0x2A),
   ("TLEN_RAW", 0x30)] ++
  [("TLEN_PARSE", 0x31), ("TLEN_SER", 0x32), ("IDENT_RAW", 0x34), ("IDENT_PARSE", 0x35),
   ("IDENT_SER", 0x36), ("FLAGS_RAW", 0x38), ("FLAGS_PARSE", 0x39), ("FLAGS_SER", 0x3A),
   ("FLAGS_PACK", 0x3B)] ++
  [("FLAGS_UNPACK", 0x3C), ("FOFF_RAW", 0x40), ("FOFF_PARSE", 0x41), ("FOFF_SER", 0x42),
   ("TTL_RAW", 0x44), ("TTL_PARSE", 0x45), ("TTL_SER", 0x46), ("TTL_EXPIRED", 0x47),
   ("TTL_DEC", 0x48)] ++
  [("PROTO_RAW", 0x4C), ("PROTO_PARSE", 0x4D), ("PROTO_SER", 0x4E), ("HCSUM_RAW", 0x50),
   ("HCSUM_PARSE", 0x51), ("HCSUM_SER", 0x52), ("ADDR_RAW", 0x60), ("ADDR_OCTETS", 0x61),
   ("ADDR_PARSE_BIN", 0x62)] ++
  [("ADDR_SER_BIN", 0x63), ("ADDR_PARSE_TEXT", 0x64), ("ADDR_FORMAT_TEXT", 0x65),
   ("ADDR_CLASS", 0x66), ("CSUM_COMPUTE", 0x70), ("CSUM_VERIFY", 0x71), ("CMP_RAW", 0x80),
   ("OBUF_CLEAR", 0xF0)]

/-- A one-bit operand: 0 or 1, or refused (R111). -/
def bitOperand : Nat → Option Bool
  | 0 => some false
  | 1 => some true
  | _ => none

/-- The command of a row of the opcode map with its operands: an omitted OFF means 0, and an operand that
does not fit its field is refused (R111). -/
def assembleEntry : Entry → List Nat → Option Instr
  | .n i, [] => some i
  | .v mk, [] => some (mk 0)
  | .v mk, [off] => if off < 65536 then some (mk off) else none
  | .t mk, [prec, ld, ht, hr] =>
    if prec < 8 then
      match bitOperand ld, bitOperand ht, bitOperand hr with
      | some low, some high, some rel => some (mk prec low high rel)
      | _, _, _ => none
    else none
  | .f mk, [df, mf] =>
    match bitOperand df, bitOperand mf with
    | some dont, some more => some (mk dont more)
    | _, _ => none
  | _, _ => none

/-- A command written as its mnemonic and its operands (R111), or none if it is refused. -/
def assemble (mnemonic : String) (operands : List Nat) : Option Instr :=
  ((mnemonics.lookup mnemonic).bind opcodeMap).bind (fun e => assembleEntry e operands)

/-- The symbolic constants (R114). -/
def symbols : List (String × Nat) :=
  [("VERSION.v4", 4), ("VERSION.v6", 6), ("TTL.default64", 64), ("PROTO.ICMP", 1),
   ("PROTO.IGMP", 2), ("PROTO.TCP", 6), ("PROTO.UDP", 17), ("PROTO.IPV6", 41), ("PROTO.GRE", 47),
   ("PROTO.ESP", 50), ("PROTO.AH", 51), ("PROTO.ICMPV6", 58), ("PROTO.SCTP", 132)]

end Sys2Proof.Machine
end

