-- ==== Sys2Proof/Safety.lean ====
section
/-! DEFINITION. What claims call a good state and a safe run: the invariant every step keeps, and the
accesses the interface admits (`20_memory.md` R72, `60_exceptions.md` R511). -/

namespace Sys2Proof.Machine

/-- The facts the rules give about every state a run reaches. -/
structure State.Inv (s : State) : Prop where
  /-- The sizes are legal (`00_scope.md` R6, R7). -/
  sizes : s.config.ok = true
  /-- ILEN <= IBUF_SIZE always holds (`10_state.md` R39). -/
  ilenBound : s.ilen.toNat ≤ s.config.ibufSize
  /-- OLEN <= OBUF_SIZE always holds (`10_state.md` R40). -/
  olenBound : s.olen.toNat ≤ s.config.obufSize
  /-- IBUF is in canonical form and holds IBUF_SIZE bytes (`10_state.md` R41). -/
  ibufWf : Memory.wf s.ibuf
  ibufBelow : Memory.below s.ibuf s.config.ibufSize
  /-- OBUF is in canonical form and holds OBUF_SIZE bytes (`10_state.md` R42). -/
  obufWf : Memory.wf s.obuf
  obufBelow : Memory.below s.obuf s.config.obufSize
  /-- The output OBUF[0 .. OLEN-1] was appended: none of it is a reset draw (`10_state.md` R40,
  `70_reset_and_hazards.md` R611). -/
  outputWritten : ∀ i, i < s.olen.toNat → Memory.find s.obuf i ≠ none
  /-- CODE is a listed outcome code or IDLE, and the reserved bits are 0 (`10_state.md` R35,
  `60_exceptions.md` R500). -/
  statusLegal : s.status.toNat ≤ 13 ∨ s.status = 15#32
  /-- EVAL and EPOS are 0 after every success (`60_exceptions.md` R502). -/
  successPayload : s.status = 0#32 → s.eval = 0#32 ∧ s.epos = 0#32
  /-- DOUT is 0 after every raise, and after reset (`60_exceptions.md` R501, `10_state.md` R34). -/
  raiseResult : s.status ≠ 0#32 → s.dout = 0#32
  /-- EPOS carries a position only for ADDR_PARSE_TEXT, whose codes are 6 to 9
  (`70_reset_and_hazards.md` R605, `44_address.md` R414). -/
  positionCodes : s.epos ≠ 0#32 → 6 ≤ s.status.toNat ∧ s.status.toNat ≤ 9
  /-- Positions are at most IBUF_SIZE, so bits 31:16 of EPOS are 0 (`60_exceptions.md` R501,
  `10_state.md` R37). -/
  positionBound : s.epos.toNat ≤ s.config.ibufSize

/-- Whether the interface admits an access (`20_memory.md` R72): a 32-bit access at an aligned offset
of the register window, or an 8-bit access of a buffer window, by the one host (`60_exceptions.md`
R511). -/
def Access.legal (c : Config) (a : Access) : Bool :=
  a.agent == .host && decide (c.base ≤ a.addr) &&
    match a.kind with
    | .read32 | .write32 _ => decide (a.addr - c.base < 0x1000) && decide ((a.addr - c.base) % 4 = 0)
    | .read8 | .write8 _ => decide (0x1000 ≤ a.addr - c.base) && decide (a.addr - c.base < 0x3000)
    | .otherWidth => false

/-- A reset is always admitted (`70_reset_and_hazards.md` R600). -/
def Event.legal (c : Config) : Event → Bool
  | .access a => a.legal c
  | .reset => true

/-- A state whose remaining run holds no refused access (`70_reset_and_hazards.md` R616). -/
def State.Conforming (s : State) : Prop := ∀ e ∈ s.pending, Event.legal s.config e = true

end Sys2Proof.Machine
end

