-- ==== Sys2Proof/Certificates/Slice0/Obligations.lean ====
section
/-! DEFINITION. The statements for the provers. The definitions before them write the outcomes of the
rules out on the fields of State, without the model's own `succeed`, `raise`, `Append`, field checks
and wire forms. -/

namespace Sys2Proof.Claims

open Sys2Proof Sys2Proof.Machine

/-- `i` completes with result `v`: CODE = OK, DOUT = v, EVAL = EPOS = 0, and every other field is
unchanged (`60_exceptions.md` R502). -/
def Succeeds (i : Instr) (s : State) (v : Nat) : Prop :=
  exec i s = .next
    { s with status := 0#32, dout := BitVec.ofNat 32 v, eval := 0#32, epos := 0#32 }

/-- `i` raises the code with that number and the payloads EVAL and EPOS: DOUT = 0, and every other
field is unchanged (`60_exceptions.md` R501). -/
def Raises (i : Instr) (s : State) (code val pos : Nat) : Prop :=
  exec i s = .next
    { s with
      status := BitVec.ofNat 32 code
      dout   := 0#32
      eval   := BitVec.ofNat 32 val
      epos   := BitVec.ofNat 32 pos }

/-- `i` appends the bytes `L` at OLEN and completes with their number (`20_memory.md` R79,
`41_validated_fields.md` R202): byte k of L stands at OBUF[OLEN + k], every other byte of OBUF reads
as before, OLEN moves by the length of L, and every field that is not named is unchanged. -/
def Emits (i : Instr) (s : State) (L : List Byte) : Prop :=
  ∃ t, exec i s = .next t ∧
    t.status = 0#32 ∧ t.dout = BitVec.ofNat 32 L.length ∧ t.eval = 0#32 ∧ t.epos = 0#32 ∧
    t.olen.toNat = s.olen.toNat + L.length ∧
    (∀ k, (h : k < L.length) → t.obufByte (s.olen.toNat + k) = L[k]) ∧
    (∀ a, a < s.olen.toNat ∨ s.olen.toNat + L.length ≤ a → t.obufByte a = s.obufByte a) ∧
    t.config = s.config ∧ t.cmd = s.cmd ∧ t.d0 = s.d0 ∧ t.d1 = s.d1 ∧ t.ilen = s.ilen ∧
    t.ibuf = s.ibuf ∧ t.pending = s.pending ∧ t.returned = s.returned ∧ t.resets = s.resets

/-- The words of a format N command with this opcode: the one word with IMM = 0 (`30_encoding.md`
R101, R106, R107). -/
def EncodedN (i : Instr) (op : Nat) : Prop :=
  ∀ w : Word, decode w = .ok i ↔ w.toNat = op * 2 ^ 24

/-- The words of a format V command with this opcode: OFF in IMM[15:0], the other IMM bits 0
(`30_encoding.md` R101, R102, R106, R107). -/
def EncodedV (i : Nat → Instr) (op : Nat) : Prop :=
  ∀ (w : Word) (off : Nat), decode w = .ok (i off) ↔ off < 65536 ∧ w.toNat = op * 2 ^ 24 + off

/-- A `_RAW` command of opcode `op`, for a field of storage width `width`, whose check accepts the
values `legal` and rejects any other with the code `errorOf` and the value as its payload
(`30_encoding.md` R105, `41_validated_fields.md` R200). A field whose check never fails has `legal`
true everywhere, and then no value meets the last clause. -/
def RawCommand (i : Instr) (op width : Nat) (legal : Nat → Prop) (errorOf : Nat → Nat) : Prop :=
  EncodedN i op ∧
  ∀ s : State,
    (2 ^ width ≤ s.d0.toNat → Raises i s 11 s.d0.toNat 0) ∧
    (s.d0.toNat < 2 ^ width → legal s.d0.toNat → Succeeds i s s.d0.toNat) ∧
    (s.d0.toNat < 2 ^ width → ¬ legal s.d0.toNat → Raises i s (errorOf s.d0.toNat) s.d0.toNat 0)

/-- A `_SER` command: as `RawCommand`, but a legal value is appended as the bytes `bytes`, unless
OBUF has no room for them (`41_validated_fields.md` R202, `20_memory.md` R79). -/
def SerCommand (i : Instr) (op width : Nat) (legal : Nat → Prop) (errorOf : Nat → Nat)
    (bytes : Nat → List Byte) : Prop :=
  EncodedN i op ∧
  ∀ s : State, s.config.ok = true →
    (2 ^ width ≤ s.d0.toNat → Raises i s 11 s.d0.toNat 0) ∧
    (s.d0.toNat < 2 ^ width → ¬ legal s.d0.toNat → Raises i s (errorOf s.d0.toNat) s.d0.toNat 0) ∧
    (s.d0.toNat < 2 ^ width → legal s.d0.toNat →
      s.olen.toNat + (bytes s.d0.toNat).length ≤ s.config.obufSize →
      Emits i s (bytes s.d0.toNat)) ∧
    (s.d0.toNat < 2 ^ width → legal s.d0.toNat →
      s.config.obufSize < s.olen.toNat + (bytes s.d0.toNat).length →
      Raises i s 12 (bytes s.d0.toNat).length 0)

/-- A `_PARSE` command of a field in one byte (`41_validated_fields.md` R201, `20_memory.md` R76,
R78): `extract` gives the field's value from IBUF[OFF]. -/
def ParseByteCommand (i : Nat → Instr) (op : Nat) (extract : Nat → Nat) (legal : Nat → Prop)
    (errorOf : Nat → Nat) : Prop :=
  EncodedV i op ∧
  ∀ (s : State) (off : Nat),
    (s.ilen.toNat ≤ off → Raises (i off) s 1 0 0) ∧
    (off < s.ilen.toNat →
      let v := extract (s.ibufByte off).toNat
      (legal v → Succeeds (i off) s v) ∧ (¬ legal v → Raises (i off) s (errorOf v) v 0))

/-- A `_PARSE` command of a field in two bytes, big-endian (`41_validated_fields.md` R201,
`20_memory.md` R74, R76, R78). -/
def ParsePairCommand (i : Nat → Instr) (op : Nat) (extract : Nat → Nat) (legal : Nat → Prop)
    (errorOf : Nat → Nat) : Prop :=
  EncodedV i op ∧
  ∀ (s : State) (off : Nat),
    (s.ilen.toNat ≤ off → Raises (i off) s 1 0 0) ∧
    (s.ilen.toNat = off + 1 → Raises (i off) s 2 1 0) ∧
    (off + 2 ≤ s.ilen.toNat →
      let v := extract ((s.ibufByte off).toNat * 256 + (s.ibufByte (off + 1)).toNat)
      (legal v → Succeeds (i off) s v) ∧ (¬ legal v → Raises (i off) s (errorOf v) v 0))

/-- The two bytes of a 16-bit value, most significant first (`20_memory.md` R74). -/
def bigEndian16 (v : Nat) : List Byte := [BitVec.ofNat 8 (v / 256), BitVec.ofNat 8 (v % 256)]

/-- The opcode map (`30_encoding.md` R106): each OPCODE with the number of IMM values its format
allows (R101: N 1, V 2^16, T 2^6, F 2^2). -/
def opcodeTable : List (Nat × Nat) :=
  [(0x10, 1), (0x11, 65536), (0x12, 1), (0x14, 1), (0x15, 65536), (0x16, 1), (0x17, 1),
   (0x18, 1), (0x19, 1), (0x20, 1), (0x21, 65536), (0x22, 1), (0x23, 64), (0x24, 1)] ++
  [(0x28, 1), (0x29, 65536), (0x2A, 1), (0x30, 1), (0x31, 65536), (0x32, 1), (0x34, 1),
   (0x35, 65536), (0x36, 1), (0x38, 1), (0x39, 65536), (0x3A, 1), (0x3B, 4), (0x3C, 1)] ++
  [(0x40, 1), (0x41, 65536), (0x42, 1), (0x44, 1), (0x45, 65536), (0x46, 1), (0x47, 1),
   (0x48, 1), (0x4C, 1), (0x4D, 65536), (0x4E, 1), (0x50, 1), (0x51, 65536), (0x52, 1)] ++
  [(0x60, 1), (0x61, 1), (0x62, 65536), (0x63, 1), (0x64, 65536), (0x65, 1), (0x66, 1),
   (0x70, 65536), (0x71, 65536), (0x80, 1), (0xF0, 1)]

/-- A word that names a command (`30_encoding.md` R107, R108). -/
def LegalWord (w : Word) : Prop :=
  ∃ row ∈ opcodeTable, w.toNat / 2 ^ 24 = row.1 ∧ w.toNat % 2 ^ 24 < row.2

/-- The commands that append (`60_exceptions.md` R505, code 12) and OBUF_CLEAR. -/
def writesOutput : Instr → Bool
  | .verSer | .ihlSer | .precSer | .tlenSer | .flagsSer | .foffSer | .tosSer | .ttlSer
  | .protoSer | .identSer | .hcsumSer | .addrSerBin | .addrFormatText | .obufClear => true
  | _ => false

/-- The codes a command can report other than OK and ILLEGAL_COMMAND (`60_exceptions.md` R505). -/
def listedCodes : Instr → List Nat
  | .verRaw | .precRaw | .foffRaw => [11, 5]
  | .verParse _ | .precParse _ | .ttlParse _ | .protoParse _ => [1]
  | .verSer | .precSer | .foffSer => [11, 5, 12]
  | .ihlRaw | .ihlBytelen | .ihlOptlen => [11, 3, 5]
  | .ihlParse _ => [1, 3]
  | .ihlSer => [11, 3, 5, 12]
  | .ihlFromBytelen => [10]
  | .tlenRaw => [11, 3]
  | .tlenParse _ => [1, 2, 3]
  | .tlenSer => [11, 3, 12]
  | .flagsRaw | .flagsUnpack => [11, 5, 4]
  | .flagsParse _ | .tosParse _ => [1, 4]
  | .flagsSer => [11, 5, 4, 12]
  | .foffParse _ | .identParse _ | .hcsumParse _ | .addrParseBin _ => [1, 2]
  | .tosRaw | .tosUnpack => [11, 4]
  | .tosSer => [11, 4, 12]
  | .ttlRaw | .ttlExpired | .protoRaw | .identRaw | .hcsumRaw => [11]
  | .ttlDec => [11, 10]
  | .ttlSer | .protoSer | .identSer | .hcsumSer => [11, 12]
  | .addrSerBin | .addrFormatText => [12]
  | .addrParseText _ => [1, 6, 7, 8, 9]
  | .tosPack _ _ _ _ | .flagsPack _ _ | .addrRaw | .addrOctets | .addrClass | .csumCompute _
  | .csumVerify _ | .cmpRaw | .obufClear => []

/-- The decimal digits of a number, in ASCII, with no leading zero (`44_address.md` R405 `Dec`). -/
def digitsText (n : Nat) : List Byte := (Nat.toDigits 10 n).map (fun ch => BitVec.ofNat 8 ch.toNat)

/-- The dotted-decimal text of an address (`44_address.md` R405, `10_state.md` R58). -/
def dottedText (v : Nat) : List Byte :=
  digitsText (v / 2 ^ 24) ++ [0x2E#8] ++ digitsText (v / 2 ^ 16 % 256) ++ [0x2E#8] ++
    digitsText (v / 2 ^ 8 % 256) ++ [0x2E#8] ++ digitsText (v % 256)

/-- The text of octets that have each been closed by a period (`44_address.md` R412). -/
def closedText (octets : List Nat) : List Byte := octets.flatMap (fun n => digitsText n ++ [0x2E#8])

/-- An ASCII digit (`44_address.md` R410). -/
def IsDigit (c : Byte) : Prop := 0x30 ≤ c.toNat ∧ c.toNat ≤ 0x39

/-- The decimal value of a digit run, exact (`44_address.md` R411). -/
def decimalValue (ds : List Byte) : Nat := ds.foldl (fun acc c => acc * 10 + (c.toNat - 0x30)) 0

/-- Where an octet closes: at the end of input or at a period (`44_address.md` R412). -/
def Closes (rest : List Byte) : Prop := rest = [] ∨ ∃ more, rest = 0x2E#8 :: more

/-- The sum of a view's 16-bit big-endian words: bytes at even indices weigh 256, and an odd final
byte is such a byte (`45_checksum.md` R450, R451). -/
def weightedSum (V : List Byte) : Nat :=
  ∑ j ∈ Finset.range V.length, (V.getD j 0).toNat * (if j % 2 = 0 then 256 else 1)

/-- The closed form of the fold (`45_checksum.md` R452). -/
def closedFold (sum : Nat) : Nat := if sum = 0 then 0 else (sum - 1) % 0xFFFF + 1

/-- The bytes a command appended between `s` and `t`. -/
def appended (s t : State) : List Byte :=
  (List.range (t.olen.toNat - s.olen.toNat)).map (fun k => t.obufByte (s.olen.toNat + k))

/-- Each serializing command with the parse of the same form (`41_validated_fields.md` R250,
`42_unvalidated_fields.md` R325, `44_address.md` R415). -/
def inversePairs : List (Instr × (Nat → Instr)) :=
  [(.verSer, .verParse), (.ihlSer, .ihlParse), (.precSer, .precParse), (.tlenSer, .tlenParse),
   (.flagsSer, .flagsParse), (.foffSer, .foffParse), (.tosSer, .tosParse), (.ttlSer, .ttlParse),
   (.protoSer, .protoParse), (.identSer, .identParse), (.hcsumSer, .hcsumParse),
   (.addrSerBin, .addrParseBin), (.addrFormatText, .addrParseText)]

/-- TTL_DEC applied k times, the host writing DOUT back into D0 each time (`42_unvalidated_fields.md`
R305, R325). -/
def decrementTimes : Nat → State → Host.Outcome State Fault Refusal
  | 0, s => .next s
  | k + 1, s =>
    match decrementTimes k s with
    | .next t =>
      match exec .ttlDec t with
      | .next u => .next { u with d0 := u.dout }
      | r => r
    | r => r

/-- The mnemonics of the opcode map with their OPCODE, format N: no operand (`30_encoding.md` R106). -/
def plainMnemonics : List (String × Nat) :=
  [("VER_RAW", 0x10), ("VER_SER", 0x12), ("IHL_RAW", 0x14), ("IHL_SER", 0x16), ("IHL_BYTELEN", 0x17),
   ("IHL_OPTLEN", 0x18), ("IHL_FROM_BYTELEN", 0x19), ("TOS_RAW", 0x20), ("TOS_SER", 0x22),
   ("TOS_UNPACK", 0x24), ("PREC_RAW", 0x28), ("PREC_SER", 0x2A)] ++
  [("TLEN_RAW", 0x30), ("TLEN_SER", 0x32), ("IDENT_RAW", 0x34), ("IDENT_SER", 0x36),
   ("FLAGS_RAW", 0x38), ("FLAGS_SER", 0x3A), ("FLAGS_UNPACK", 0x3C), ("FOFF_RAW", 0x40),
   ("FOFF_SER", 0x42), ("TTL_RAW", 0x44), ("TTL_SER", 0x46), ("TTL_EXPIRED", 0x47)] ++
  [("TTL_DEC", 0x48), ("PROTO_RAW", 0x4C), ("PROTO_SER", 0x4E), ("HCSUM_RAW", 0x50),
   ("HCSUM_SER", 0x52), ("ADDR_RAW", 0x60), ("ADDR_OCTETS", 0x61), ("ADDR_SER_BIN", 0x63),
   ("ADDR_FORMAT_TEXT", 0x65), ("ADDR_CLASS", 0x66), ("CMP_RAW", 0x80), ("OBUF_CLEAR", 0xF0)]

/-- The mnemonics of the opcode map with their OPCODE, format V: `OFF` (`30_encoding.md` R106). -/
def viewMnemonics : List (String × Nat) :=
  [("VER_PARSE", 0x11), ("IHL_PARSE", 0x15), ("TOS_PARSE", 0x21), ("PREC_PARSE", 0x29),
   ("TLEN_PARSE", 0x31), ("IDENT_PARSE", 0x35), ("FLAGS_PARSE", 0x39), ("FOFF_PARSE", 0x41),
   ("TTL_PARSE", 0x45), ("PROTO_PARSE", 0x4D), ("HCSUM_PARSE", 0x51), ("ADDR_PARSE_BIN", 0x62),
   ("ADDR_PARSE_TEXT", 0x64), ("CSUM_COMPUTE", 0x70), ("CSUM_VERIFY", 0x71)]

/-- Format N takes no operand, and IMM is 0 (`30_encoding.md` R101, R111). -/
def PlainOperands (ops : List Nat) (imm : Nat) : Prop := ops = [] ∧ imm = 0

/-- Format V takes `OFF`, below 2^16 and in IMM[15:0]; an omitted OFF means 0 (`30_encoding.md` R101,
R102, R111). -/
def ViewOperands (ops : List Nat) (imm : Nat) : Prop :=
  (ops = [] ∧ imm = 0) ∨ (ops = [imm] ∧ imm < 65536)

/-- `TOS_PACK prec, ld, ht, hr`: PREC in IMM[2:0], LD in IMM[3], HT in IMM[4], HR in IMM[5]
(`30_encoding.md` R103, R111). -/
def TosOperands (ops : List Nat) (imm : Nat) : Prop :=
  ∃ prec ld ht hr, ops = [prec, ld, ht, hr] ∧ prec < 8 ∧ ld < 2 ∧ ht < 2 ∧ hr < 2 ∧
    imm = hr * 32 + ht * 16 + ld * 8 + prec

/-- `FLAGS_PACK df, mf`: DF in IMM[0], MF in IMM[1] (`30_encoding.md` R104, R111). -/
def FlagsOperands (ops : List Nat) (imm : Nat) : Prop :=
  ∃ df mf, ops = [df, mf] ∧ df < 2 ∧ mf < 2 ∧ imm = mf * 2 + df

/-- The assembler of one mnemonic with OPCODE `op`, where `fits` says which operand lists fit the
fields and the IMM they build: a list that fits gives a command, always the well-formed command whose
word is `(OPCODE << 24) | IMM`; any other list is refused (`30_encoding.md` R111). -/
def AssemblesAs (mnemonic : String) (op : Nat) (fits : List Nat → Nat → Prop) : Prop :=
  (∀ ops i, assemble mnemonic ops = some i ↔
    i.wellFormed = true ∧ ∃ imm, fits ops imm ∧ (encode i).toNat = op * 2 ^ 24 + imm) ∧
  (∀ ops imm, fits ops imm → ∃ i, assemble mnemonic ops = some i) ∧
  (∀ ops, (¬ ∃ imm, fits ops imm) → assemble mnemonic ops = none)

end Sys2Proof.Claims

open Sys2Proof Sys2Proof.Machine Sys2Proof.Claims

/-! ## Encoding and the step -/

/-- Words written out from `30_encoding.md` R106 and the spec's own examples decode to the command they
stand for, one or more of each family; the illegal words of `30_encoding.md` R108 and R107 do not
decode. -/
def Obligations.SpecWordsDecode : Prop :=
  decode 0x10000000#32 = .ok .verRaw ∧
  decode 0x31000002#32 = .ok (.tlenParse 2) ∧
  decode 0x1100FFFF#32 = .ok (.verParse 65535) ∧
  decode 0x46000000#32 = .ok .ttlSer ∧
  decode 0x5100000A#32 = .ok (.hcsumParse 10) ∧
  decode 0x2300001D#32 = .ok (.tosPack 5 true true false) ∧
  decode 0x3B000001#32 = .ok (.flagsPack true false) ∧
  decode 0x64000001#32 = .ok (.addrParseText 1) ∧
  decode 0x70000002#32 = .ok (.csumCompute 2) ∧
  decode 0x80000000#32 = .ok .cmpRaw ∧
  decode 0xF0000000#32 = .ok .obufClear ∧
  decode 0x00000000#32 = .error .unknownOpcode ∧
  decode 0x13000000#32 = .error .unknownOpcode ∧
  decode 0x23000040#32 = .error .reservedImm

/-- `30_encoding.md` R107, R108: a word decodes to a command exactly when its opcode is in the map
and no IMM bit outside its format's mask is set; it then decodes to one command only. -/
def Obligations.WordDecodesIffInOpcodeMap : Prop :=
  ∀ w : Word, (∃ i, decode w = .ok i) ↔ LegalWord w

/-- The decoder reads back the word of every well-formed command, with every operand. -/
def Obligations.DecodeOfEncodeIsIdentity : Prop :=
  ∀ i : Instr, i.wellFormed = true → decode (encode i) = .ok i

/-- A word that decodes is the word of the well-formed command it decodes to: no bit is dropped. -/
def Obligations.EncodeOfDecodeIsIdentity : Prop :=
  ∀ (w : Word) (i : Instr), decode w = .ok i → i.wellFormed = true ∧ encode i = w

/-- `30_encoding.md` R107: an illegal word raises ILLEGAL_COMMAND(w, 0) and changes nothing else. -/
def Obligations.IllegalWordRaisesIllegalCommand : Prop :=
  ∀ (s : State) (w : Word) (rest : List Event),
    s.pending = commandEvent s.config w :: rest → ¬ LegalWord w →
    step s = .next
      { s with
        pending := rest, cmd := w, status := 13#32, dout := 0#32, eval := w, epos := 0#32 }

/-- `30_encoding.md` R110: the host's write of a word that decodes to `i` stores the word in CMD and
performs `i`, in one step; the step also takes the access from the pending ones. -/
def Obligations.StepRunsDecodedCommand : Prop :=
  ∀ (s : State) (w : Word) (rest : List Event) (i : Instr),
    s.pending = commandEvent s.config w :: rest → decode w = .ok i →
    step s = exec i { s with pending := rest, cmd := w }

/-- The word the host places with `withFetchWord` is the very next command. This is how the model
stands for the load of a program (log 4). -/
def Obligations.StepRunsPlacedWord : Prop :=
  ∀ (s : State) (nbits w : Nat) (i : Instr), decodeTableWord nbits w = some i →
    step (s.withFetchWord nbits w) = exec i { s with cmd := BitVec.ofNat 32 (w % 2 ^ nbits) }

/-- With no event pending nothing changes. This is the model's reading of `70_reset_and_hazards.md`
R601 "After reset the codec waits for host accesses" (log 5). -/
def Obligations.IdleStepChangesNothing : Prop :=
  ∀ s : State, s.pending = [] → step s = .next s

/-- The host operations of `30_encoding.md` R112: what the step does for each. -/
def Obligations.HostOperationsDoWhatTheyName : Prop :=
  ∀ (s : State) (op : HostOp) (rest : List Event),
    s.pending = op.event s.config :: rest →
    let s0 := { s with pending := rest }
    (∀ v, op = .wr .d0 v → step s = .next { s0 with d0 := v }) ∧
    (∀ v, op = .wr .d1 v → step s = .next { s0 with d1 := v }) ∧
    (∀ v, op = .wr .ilen v → v.toNat ≤ s.config.ibufSize → step s = .next { s0 with ilen := v }) ∧
    (∀ r, op = .rd r → step s = .next (s0.answer (.word (match r with
      | .cmd => s.cmd | .status => s.status | .d0 => s.d0 | .d1 => s.d1 | .dout => s.dout
      | .eval => s.eval | .epos => s.epos | .ilen => s.ilen | .olen => s.olen)))) ∧
    (∀ i b, op = .wrb i b → i < s.config.ibufSize → i < 4096 →
      ∃ t, step s = .next t ∧ t.ibufByte i = b ∧ (∀ j, j ≠ i → t.ibufByte j = s.ibufByte j) ∧
        { t with ibuf := s.ibuf } = s0) ∧
    (∀ i, op = .rdb i → i < s.config.obufSize → i < 4096 →
      step s = .next (s0.answer (.byte (s.obufByte i)))) ∧
    (∀ i, op = .cmd i → i.wellFormed = true → step s = exec i { s0 with cmd := encode i })

/-- `30_encoding.md` R111: for each mnemonic, by its format, the operand lists the assembler accepts and
the word it encodes them in; an omitted OFF means 0; an operand that does not fit its field, a wrong
number of operands and an unknown mnemonic are refused. Numbers are given as values (log 17). -/
def Obligations.AssemblerRefusesUnfitOperands : Prop :=
  (∀ row ∈ plainMnemonics, AssemblesAs row.1 row.2 PlainOperands) ∧
  (∀ row ∈ viewMnemonics, AssemblesAs row.1 row.2 ViewOperands) ∧
  AssemblesAs "TOS_PACK" 0x23 TosOperands ∧
  AssemblesAs "FLAGS_PACK" 0x3B FlagsOperands ∧
  ∀ mnemonic ops, mnemonic ∉ plainMnemonics.map Prod.fst → mnemonic ∉ viewMnemonics.map Prod.fst →
    mnemonic ≠ "TOS_PACK" → mnemonic ≠ "FLAGS_PACK" → assemble mnemonic ops = none

/-! ## The host interface -/

/-- Every register read returns the register and has no other effect; a reserved offset reads 0
(`10_state.md` section 2, `20_memory.md` R73, R80). -/
def Obligations.RegisterReadsReturnTheRegister : Prop :=
  ∀ (s : State) (off : Nat) (rest : List Event), off < 0x1000 → off % 4 = 0 →
    s.pending = .access ⟨.host, s.config.base + off, .read32⟩ :: rest →
    step s = .next { s with
      pending := rest
      returned := s.returned ++ [.word
        (if off = 0x000 then s.cmd else if off = 0x004 then s.status else if off = 0x008 then s.d0
         else if off = 0x00C then s.d1 else if off = 0x010 then s.dout
         else if off = 0x014 then s.eval else if off = 0x018 then s.epos
         else if off = 0x01C then s.ilen else if off = 0x020 then s.olen else 0#32)] }

/-- Host writes of D0, D1 and ILEN (`10_state.md` R32, R33, R39): D0 and D1 take all 32 bits, ILEN
takes min(v, IBUF_SIZE); nothing else changes. -/
def Obligations.HostWritesOfOperandRegisters : Prop :=
  ∀ (s : State) (v : Word) (rest : List Event), s.config.ok = true →
    (s.pending = .access ⟨.host, s.config.base + 0x008, .write32 v⟩ :: rest →
      step s = .next { s with pending := rest, d0 := v }) ∧
    (s.pending = .access ⟨.host, s.config.base + 0x00C, .write32 v⟩ :: rest →
      step s = .next { s with pending := rest, d1 := v }) ∧
    (s.pending = .access ⟨.host, s.config.base + 0x01C, .write32 v⟩ :: rest →
      ∃ t, step s = .next t ∧ t.ilen.toNat = min v.toNat s.config.ibufSize ∧
        t = { s with pending := rest, ilen := t.ilen })

/-- `20_memory.md` R73: reserved offsets read 0 and ignore writes; writes to the read-only registers
and to OBUF are ignored; none of these accesses has another effect. -/
def Obligations.ReservedAndReadOnlyAccesses : Prop :=
  ∀ (s : State) (off : Nat) (rest : List Event), s.config.ok = true →
    (∀ v, s.pending = .access ⟨.host, s.config.base + off, .write32 v⟩ :: rest →
      off < 0x1000 → off % 4 = 0 →
      (off = 0x004 ∨ off = 0x010 ∨ off = 0x014 ∨ off = 0x018 ∨ 0x020 ≤ off) →
      step s = .next { s with pending := rest }) ∧
    (s.pending = .access ⟨.host, s.config.base + off, .read32⟩ :: rest →
      0x024 ≤ off → off < 0x1000 → off % 4 = 0 →
      step s = .next { s with pending := rest, returned := s.returned ++ [.word 0#32] }) ∧
    (∀ b, s.pending = .access ⟨.host, s.config.base + off, .write8 b⟩ :: rest →
      0x1000 + s.config.ibufSize ≤ off → off < 0x3000 →
      step s = .next { s with pending := rest }) ∧
    (s.pending = .access ⟨.host, s.config.base + off, .read8⟩ :: rest →
      (0x1000 + s.config.ibufSize ≤ off ∧ off < 0x2000) ∨
        (0x2000 + s.config.obufSize ≤ off ∧ off < 0x3000) →
      step s = .next { s with pending := rest, returned := s.returned ++ [.byte 0#8] })

/-- The IBUF and OBUF windows (`20_memory.md` R71): a write of IBUF[i] changes that byte of IBUF and
nothing else; reads of IBUF[i] and OBUF[i] return the byte and change nothing. -/
def Obligations.BufferWindowAccesses : Prop :=
  ∀ (s : State) (i : Nat) (rest : List Event), s.config.ok = true →
    (∀ b, s.pending = .access ⟨.host, s.config.base + 0x1000 + i, .write8 b⟩ :: rest →
      i < s.config.ibufSize →
      ∃ t, step s = .next t ∧ t.ibufByte i = b ∧ (∀ j, j ≠ i → t.ibufByte j = s.ibufByte j) ∧
        t = { s with pending := rest, ibuf := t.ibuf }) ∧
    (s.pending = .access ⟨.host, s.config.base + 0x1000 + i, .read8⟩ :: rest →
      i < s.config.ibufSize →
      step s = .next
        { s with pending := rest, returned := s.returned ++ [.byte (s.ibufByte i)] }) ∧
    (s.pending = .access ⟨.host, s.config.base + 0x2000 + i, .read8⟩ :: rest →
      i < s.config.obufSize →
      step s = .next
        { s with pending := rest, returned := s.returned ++ [.byte (s.obufByte i)] })

/-- `20_memory.md` R72: a host access at an offset from CODEC_BASE is refused exactly when it is no
aligned 32-bit access of the register window and no 8-bit access of a buffer window. -/
def Obligations.OutsideAccessesAreRefused : Prop :=
  ∀ (s : State) (off : Nat) (k : AccessKind) (rest : List Event),
    s.pending = .access ⟨.host, s.config.base + off, k⟩ :: rest →
    (step s = .refused .outsideInterface ↔
      ¬ ((((∃ v, k = .write32 v) ∨ k = .read32) ∧ off < 0x1000 ∧ off % 4 = 0) ∨
         (((∃ b, k = .write8 b) ∨ k = .read8) ∧ 0x1000 ≤ off ∧ off < 0x3000)))

/-- `60_exceptions.md` R511: an access of a second agent is refused, whatever it is. -/
def Obligations.SecondAgentIsRefused : Prop :=
  ∀ (s : State) (a : Access) (rest : List Event),
    s.pending = .access a :: rest → a.agent = .other → step s = .refused .secondAgent

/-! ## Reset and the invariant -/

/-- `70_reset_and_hazards.md` R600: the values a platform reset leaves. The buffer bytes are the draws
of the next reset, whatever they are; the configuration is unchanged. What the host has still to do
and has read is kept (log 7). -/
def Obligations.PlatformResetLeavesResetValues : Prop :=
  ∀ (s : State) (rest : List Event), s.pending = .reset :: rest →
    ∃ t, step s = .next t ∧
      t.cmd = 0#32 ∧ t.status = 15#32 ∧ t.d0 = 0#32 ∧ t.d1 = 0#32 ∧ t.dout = 0#32 ∧
      t.eval = 0#32 ∧ t.epos = 0#32 ∧ t.ilen = 0#32 ∧ t.olen = 0#32 ∧
      (∀ i, t.ibufByte i = Config.ibufDraw (s.resets + 1) i) ∧
      (∀ i, t.obufByte i = Config.obufDraw (s.resets + 1) i) ∧
      t.config = s.config ∧ t.pending = rest ∧ t.returned = s.returned

/-- The state after reset: the values of `70_reset_and_hazards.md` R600 and the default sizes of
`00_scope.md` R6 and R7. -/
def Obligations.ResetStateHasResetValues : Prop :=
  State.reset.cmd = 0#32 ∧ State.reset.status = 15#32 ∧ State.reset.d0 = 0#32 ∧
  State.reset.d1 = 0#32 ∧ State.reset.dout = 0#32 ∧ State.reset.eval = 0#32 ∧
  State.reset.epos = 0#32 ∧ State.reset.ilen = 0#32 ∧ State.reset.olen = 0#32 ∧
  (∀ i, State.reset.ibufByte i = Config.ibufDraw 0 i) ∧
  (∀ i, State.reset.obufByte i = Config.obufDraw 0 i) ∧
  State.reset.config.ibufSize = 64 ∧ State.reset.config.obufSize = 64

/-- The invariant holds after reset, for every legal configuration. -/
def Obligations.ResetMeetsTheInvariant : Prop :=
  ∀ c : Config, c.ok = true → (State.resetWith c).Inv

/-- Every step keeps the invariant: legal sizes, ILEN and OLEN in bounds, both buffers in canonical
form and inside their arrays, the output written, CODE legal, payloads as R501 and R502 leave
them. -/
def Obligations.EveryStepKeepsTheInvariant : Prop :=
  ∀ s t : State, s.Inv → step s = .next t → t.Inv

/-- `70_reset_and_hazards.md` R614: every command completes, from every state. -/
def Obligations.EveryCommandCompletes : Prop :=
  ∀ (i : Instr) (s : State), ∃ t, exec i s = .next t

/-- A run whose accesses the interface admits never stops: each step answers a next state, from which
the same holds (`70_reset_and_hazards.md` R614, R616). -/
def Obligations.ConformingRunsNeverStop : Prop :=
  ∀ s : State, s.Conforming → ∃ t, step s = .next t ∧ t.Conforming

/-- `10_state.md` R60: a command writes only DOUT, STATUS, EVAL and EPOS, plus OBUF and OLEN for the
commands that append or clear. -/
def Obligations.CommandsWriteOnlyTheirOutputs : Prop :=
  ∀ (i : Instr) (s t : State), exec i s = .next t →
    t.config = s.config ∧ t.cmd = s.cmd ∧ t.d0 = s.d0 ∧ t.d1 = s.d1 ∧ t.ilen = s.ilen ∧
    t.ibuf = s.ibuf ∧ t.pending = s.pending ∧ t.returned = s.returned ∧ t.resets = s.resets ∧
    (writesOutput i = false → t.obuf = s.obuf ∧ t.olen = s.olen)

/-- `60_exceptions.md` R505: the codes each command can report. No command writes IDLE or the
reserved code. -/
def Obligations.CommandsReportOnlyListedCodes : Prop :=
  ∀ (i : Instr) (s t : State), exec i s = .next t →
    t.status = 0#32 ∨ ∃ c ∈ listedCodes i, t.status = BitVec.ofNat 32 c

/-- `60_exceptions.md` R503: errors are precise. After a raise the state is the one before, plus the
writes of STATUS, DOUT, EVAL and EPOS; DOUT is 0. -/
def Obligations.ErrorsArePrecise : Prop :=
  ∀ (i : Instr) (s t : State), exec i s = .next t → t.status ≠ 0#32 →
    t = { s with status := t.status, dout := 0#32, eval := t.eval, epos := t.epos }

/-- `10_state.md` R44, `60_exceptions.md` R503: no command depends on CODE or on any earlier result. -/
def Obligations.OutcomeIgnoresEarlierResults : Prop :=
  ∀ (i : Instr) (s t : State) (st dout ev ep cmd : Word), exec i s = .next t →
    exec i { s with status := st, dout := dout, eval := ev, epos := ep, cmd := cmd } =
      .next { t with cmd := cmd }

/-- `20_memory.md` R76: no command's outcome depends on an IBUF byte at or beyond ILEN, nor on which
reset the draws belong to (`70_reset_and_hazards.md` R602). -/
def Obligations.OutcomeIgnoresBytesBeyondIlen : Prop :=
  ∀ (i : Instr) (s t : State) (m : Memory) (r : Nat),
    (∀ k, k < s.ilen.toNat → State.ibufByte { s with ibuf := m, resets := r } k = s.ibufByte k) →
    exec i s = .next t →
    exec i { s with ibuf := m, resets := r } = .next { t with ibuf := m, resets := r }

/-- `20_memory.md` R76: the view is IBUF[off .. ILEN-1], or empty. -/
def Obligations.ViewIsTheBytesBelowIlen : Prop :=
  ∀ (s : State) (off : Nat),
    (s.view off).length = (if off < s.ilen.toNat then s.ilen.toNat - off else 0) ∧
    ∀ j, (h : j < (s.view off).length) → (s.view off)[j] = s.ibufByte (off + j)

/-! ## The commands -/

/-- Version (`41_validated_fields.md` R210, R211, R212). -/
def Obligations.VersionCommands : Prop :=
  RawCommand .verRaw 0x10 8 (· ≤ 15) (fun _ => 5) ∧
  ParseByteCommand .verParse 0x11 (· / 16) (fun _ => True) (fun _ => 0) ∧
  SerCommand .verSer 0x12 8 (· ≤ 15) (fun _ => 5) (fun v => [BitVec.ofNat 8 (v * 16)])

/-- IHL (`41_validated_fields.md` R215, R216, R217). -/
def Obligations.IhlCommands : Prop :=
  RawCommand .ihlRaw 0x14 8 (fun v => 5 ≤ v ∧ v ≤ 15) (fun v => if v < 5 then 3 else 5) ∧
  ParseByteCommand .ihlParse 0x15 (· % 16) (5 ≤ ·) (fun _ => 3) ∧
  SerCommand .ihlSer 0x16 8 (fun v => 5 ≤ v ∧ v ≤ 15) (fun v => if v < 5 then 3 else 5)
    (fun v => [BitVec.ofNat 8 v])

/-- IHL_BYTELEN, IHL_OPTLEN and IHL_FROM_BYTELEN (`41_validated_fields.md` R218, R219, R220). -/
def Obligations.IhlLengthCommands : Prop :=
  EncodedN .ihlBytelen 0x17 ∧ EncodedN .ihlOptlen 0x18 ∧ EncodedN .ihlFromBytelen 0x19 ∧
  ∀ s : State,
    (∀ i ∈ [Instr.ihlBytelen, .ihlOptlen],
      (256 ≤ s.d0.toNat → Raises i s 11 s.d0.toNat 0) ∧
      (s.d0.toNat < 5 → Raises i s 3 s.d0.toNat 0) ∧
      (16 ≤ s.d0.toNat → s.d0.toNat < 256 → Raises i s 5 s.d0.toNat 0)) ∧
    (5 ≤ s.d0.toNat → s.d0.toNat ≤ 15 →
      Succeeds .ihlBytelen s (s.d0.toNat * 4) ∧ Succeeds .ihlOptlen s (s.d0.toNat * 4 - 20)) ∧
    (s.d0.toNat % 4 = 0 ∧ 20 ≤ s.d0.toNat ∧ s.d0.toNat ≤ 60 →
      Succeeds .ihlFromBytelen s (s.d0.toNat / 4)) ∧
    (¬ (s.d0.toNat % 4 = 0 ∧ 20 ≤ s.d0.toNat ∧ s.d0.toNat ≤ 60) →
      Raises .ihlFromBytelen s 10 s.d0.toNat 0)

/-- `41_validated_fields.md` R220, the law at its end: IHL_FROM_BYTELEN of IHL_BYTELEN's result gives
back the IHL. -/
def Obligations.ByteLengthGivesBackTheIhl : Prop :=
  ∀ s t u : State, exec .ihlBytelen s = .next t → t.status = 0#32 → u.d0 = t.dout →
    Succeeds .ihlFromBytelen u s.d0.toNat

/-- Precedence (`41_validated_fields.md` R225, R226, R227). -/
def Obligations.PrecedenceCommands : Prop :=
  RawCommand .precRaw 0x28 8 (· ≤ 7) (fun _ => 5) ∧
  ParseByteCommand .precParse 0x29 (· / 32) (fun _ => True) (fun _ => 0) ∧
  SerCommand .precSer 0x2A 8 (· ≤ 7) (fun _ => 5) (fun v => [BitVec.ofNat 8 (v * 32)])

/-- TotalLength (`41_validated_fields.md` R230, R231, R232). -/
def Obligations.TotalLengthCommands : Prop :=
  RawCommand .tlenRaw 0x30 16 (20 ≤ ·) (fun _ => 3) ∧
  ParsePairCommand .tlenParse 0x31 (fun v => v) (20 ≤ ·) (fun _ => 3) ∧
  SerCommand .tlenSer 0x32 16 (20 ≤ ·) (fun _ => 3) bigEndian16

/-- Flags (`41_validated_fields.md` R235, R236, R237). -/
def Obligations.FlagsCommands : Prop :=
  RawCommand .flagsRaw 0x38 8 (· ≤ 3) (fun v => if 7 < v then 5 else 4) ∧
  ParseByteCommand .flagsParse 0x39 (· / 32) (· ≤ 3) (fun _ => 4) ∧
  SerCommand .flagsSer 0x3A 8 (· ≤ 3) (fun v => if 7 < v then 5 else 4)
    (fun v => [BitVec.ofNat 8 (v * 32)])

/-- FragmentOffset (`41_validated_fields.md` R240, R241, R242). -/
def Obligations.FragmentOffsetCommands : Prop :=
  RawCommand .foffRaw 0x40 16 (· ≤ 8191) (fun _ => 5) ∧
  ParsePairCommand .foffParse 0x41 (· % 8192) (fun _ => True) (fun _ => 0) ∧
  SerCommand .foffSer 0x42 16 (· ≤ 8191) (fun _ => 5) bigEndian16

/-- TypeOfService (`41_validated_fields.md` R245, R246, R247). -/
def Obligations.TypeOfServiceCommands : Prop :=
  RawCommand .tosRaw 0x20 8 (· % 4 = 0) (fun _ => 4) ∧
  ParseByteCommand .tosParse 0x21 (fun v => v) (· % 4 = 0) (fun _ => 4) ∧
  SerCommand .tosSer 0x22 8 (· % 4 = 0) (fun _ => 4) (fun v => [BitVec.ofNat 8 v])

/-- TTL (`42_unvalidated_fields.md` R301, R302, R303). -/
def Obligations.TtlFieldCommands : Prop :=
  RawCommand .ttlRaw 0x44 8 (fun _ => True) (fun _ => 0) ∧
  ParseByteCommand .ttlParse 0x45 (fun v => v) (fun _ => True) (fun _ => 0) ∧
  SerCommand .ttlSer 0x46 8 (fun _ => True) (fun _ => 0) (fun v => [BitVec.ofNat 8 v])

/-- TTL_EXPIRED and TTL_DEC (`42_unvalidated_fields.md` R304, R305). -/
def Obligations.TtlExpiryAndDecrement : Prop :=
  EncodedN .ttlExpired 0x47 ∧ EncodedN .ttlDec 0x48 ∧
  ∀ s : State,
    (256 ≤ s.d0.toNat →
      Raises .ttlExpired s 11 s.d0.toNat 0 ∧ Raises .ttlDec s 11 s.d0.toNat 0) ∧
    (s.d0.toNat = 0 → Succeeds .ttlExpired s 1 ∧ Raises .ttlDec s 10 0 0) ∧
    (1 ≤ s.d0.toNat → s.d0.toNat < 256 →
      Succeeds .ttlExpired s 0 ∧ Succeeds .ttlDec s (s.d0.toNat - 1))

/-- `42_unvalidated_fields.md` R325: TTL_DEC applied k times to v succeeds while k <= v, with result
v - k, and the (v+1)-th application raises NO_VALUE. -/
def Obligations.TtlDecrementChain : Prop :=
  ∀ s : State, s.d0.toNat < 256 →
    (∀ k, 1 ≤ k → k ≤ s.d0.toNat → ∃ t, decrementTimes k s = .next t ∧ t.status = 0#32 ∧
      t.dout.toNat = s.d0.toNat - k ∧ t.d0 = t.dout) ∧
    (∃ t, decrementTimes (s.d0.toNat + 1) s = .next t ∧ t.status = 10#32 ∧ t.eval = 0#32)

/-- Protocol (`42_unvalidated_fields.md` R310, R311, R312). -/
def Obligations.ProtocolCommands : Prop :=
  RawCommand .protoRaw 0x4C 8 (fun _ => True) (fun _ => 0) ∧
  ParseByteCommand .protoParse 0x4D (fun v => v) (fun _ => True) (fun _ => 0) ∧
  SerCommand .protoSer 0x4E 8 (fun _ => True) (fun _ => 0) (fun v => [BitVec.ofNat 8 v])

/-- Identification (`42_unvalidated_fields.md` R315, R316, R317). -/
def Obligations.IdentificationCommands : Prop :=
  RawCommand .identRaw 0x34 16 (fun _ => True) (fun _ => 0) ∧
  ParsePairCommand .identParse 0x35 (fun v => v) (fun _ => True) (fun _ => 0) ∧
  SerCommand .identSer 0x36 16 (fun _ => True) (fun _ => 0) bigEndian16

/-- HeaderChecksum, the field (`42_unvalidated_fields.md` R320, R321, R322). -/
def Obligations.HeaderChecksumFieldCommands : Prop :=
  RawCommand .hcsumRaw 0x50 16 (fun _ => True) (fun _ => 0) ∧
  ParsePairCommand .hcsumParse 0x51 (fun v => v) (fun _ => True) (fun _ => 0) ∧
  SerCommand .hcsumSer 0x52 16 (fun _ => True) (fun _ => 0) bigEndian16

/-- TOS_PACK and TOS_UNPACK (`43_composition.md` R351, R352). -/
def Obligations.TypeOfServiceComposition : Prop :=
  (∀ (w : Word) (prec : Nat) (ld ht hr : Bool), decode w = .ok (.tosPack prec ld ht hr) ↔
    prec < 8 ∧ w.toNat = 0x23 * 2 ^ 24 + hr.toNat * 32 + ht.toNat * 16 + ld.toNat * 8 + prec) ∧
  EncodedN .tosUnpack 0x24 ∧
  ∀ s : State,
    (∀ (prec : Nat) (ld ht hr : Bool), prec < 8 → Succeeds (.tosPack prec ld ht hr) s
      (prec * 32 + ld.toNat * 16 + ht.toNat * 8 + hr.toNat * 4)) ∧
    (256 ≤ s.d0.toNat → Raises .tosUnpack s 11 s.d0.toNat 0) ∧
    (s.d0.toNat < 256 → s.d0.toNat % 4 ≠ 0 → Raises .tosUnpack s 4 s.d0.toNat 0) ∧
    (s.d0.toNat < 256 → s.d0.toNat % 4 = 0 → Succeeds .tosUnpack s
      (s.d0.toNat / 32 + s.d0.toNat / 16 % 2 * 8 + s.d0.toNat / 8 % 2 * 16 +
        s.d0.toNat / 4 % 2 * 32))

/-- FLAGS_PACK and FLAGS_UNPACK (`43_composition.md` R353, R354). -/
def Obligations.FlagsComposition : Prop :=
  (∀ (w : Word) (df mf : Bool), decode w = .ok (.flagsPack df mf) ↔
    w.toNat = 0x3B * 2 ^ 24 + mf.toNat * 2 + df.toNat) ∧
  EncodedN .flagsUnpack 0x3C ∧
  ∀ s : State,
    (∀ df mf : Bool, Succeeds (.flagsPack df mf) s (df.toNat * 2 + mf.toNat)) ∧
    (256 ≤ s.d0.toNat → Raises .flagsUnpack s 11 s.d0.toNat 0) ∧
    (8 ≤ s.d0.toNat → s.d0.toNat < 256 → Raises .flagsUnpack s 5 s.d0.toNat 0) ∧
    (4 ≤ s.d0.toNat → s.d0.toNat < 8 → Raises .flagsUnpack s 4 s.d0.toNat 0) ∧
    (s.d0.toNat < 4 → Succeeds .flagsUnpack s (s.d0.toNat / 2 + s.d0.toNat % 2 * 2))

/-- `43_composition.md` R350: unpacking a packed value gives back the pack's IMM, and packing the
unpacked lanes gives back the value. -/
def Obligations.PackAndUnpackAreInverse : Prop :=
  (∀ (prec : Nat) (ld ht hr : Bool) (s t u : State), prec < 8 →
    exec (.tosPack prec ld ht hr) s = .next t → u.d0 = t.dout →
    Succeeds .tosUnpack u (Instr.tosPack prec ld ht hr).imm.toNat) ∧
  (∀ (df mf : Bool) (s t u : State), exec (.flagsPack df mf) s = .next t → u.d0 = t.dout →
    Succeeds .flagsUnpack u (Instr.flagsPack df mf).imm.toNat) ∧
  (∀ s t u : State, exec .tosUnpack s = .next t → t.status = 0#32 →
    ∃ i, decode (BitVec.ofNat 32 (0x23 * 2 ^ 24 + t.dout.toNat)) = .ok i ∧
      Succeeds i u s.d0.toNat) ∧
  (∀ s t u : State, exec .flagsUnpack s = .next t → t.status = 0#32 →
    ∃ i, decode (BitVec.ofNat 32 (0x3B * 2 ^ 24 + t.dout.toNat)) = .ok i ∧
      Succeeds i u s.d0.toNat)

/-- ADDR_RAW and ADDR_OCTETS (`44_address.md` R400, R401). -/
def Obligations.AddressConstruction : Prop :=
  EncodedN .addrRaw 0x60 ∧ EncodedN .addrOctets 0x61 ∧
  ∀ s : State,
    Succeeds .addrRaw s s.d0.toNat ∧
    ∀ a b c d : Nat, a < 256 → b < 256 → c < 256 → d < 256 →
      s.d0.toNat = d * 2 ^ 24 + c * 2 ^ 16 + b * 2 ^ 8 + a →
      Succeeds .addrOctets s (a * 2 ^ 24 + b * 2 ^ 16 + c * 2 ^ 8 + d)

/-- ADDR_PARSE_BIN and ADDR_SER_BIN (`44_address.md` R402, R403). -/
def Obligations.AddressBinaryForms : Prop :=
  EncodedV .addrParseBin 0x62 ∧
  (∀ (s : State) (off : Nat),
    (s.ilen.toNat ≤ off → Raises (.addrParseBin off) s 1 0 0) ∧
    (∀ n, 1 ≤ n → n ≤ 3 → s.ilen.toNat = off + n → Raises (.addrParseBin off) s 2 n 0) ∧
    (off + 4 ≤ s.ilen.toNat → Succeeds (.addrParseBin off) s
      ((s.ibufByte off).toNat * 2 ^ 24 + (s.ibufByte (off + 1)).toNat * 2 ^ 16 +
        (s.ibufByte (off + 2)).toNat * 2 ^ 8 + (s.ibufByte (off + 3)).toNat))) ∧
  SerCommand .addrSerBin 0x63 32 (fun _ => True) (fun _ => 0) (fun v =>
    [BitVec.ofNat 8 (v / 2 ^ 24), BitVec.ofNat 8 (v / 2 ^ 16), BitVec.ofNat 8 (v / 2 ^ 8),
     BitVec.ofNat 8 v])

/-- ADDR_FORMAT_TEXT (`44_address.md` R405), the text written with Lean's own decimal digits; the text
has 7 to 15 bytes. That ADDR_PARSE_TEXT of it gives back the address is the spec's own inference, R405
"[derived: from rules R404 and R405]". -/
def Obligations.AddressTextFormat : Prop :=
  SerCommand .addrFormatText 0x65 32 (fun _ => True) (fun _ => 0) dottedText ∧
  ∀ v : Word, 7 ≤ (dottedText v.toNat).length ∧ (dottedText v.toNat).length ≤ 15 ∧
    ∀ (u : State) (off : Nat), u.view off = dottedText v.toNat →
      Succeeds (.addrParseText off) u v.toNat

/-- `44_address.md` R404, R413, R415: ADDR_PARSE_TEXT accepts exactly the dotted-decimal texts of
addresses, and answers the address. -/
def Obligations.TextParseAcceptsExactlyAddressTexts : Prop :=
  EncodedV .addrParseText 0x64 ∧
  ∀ (s : State) (off : Nat),
    (∀ v : Word, Succeeds (.addrParseText off) s v.toNat ↔ s.view off = dottedText v.toNat) ∧
    (∀ t, exec (.addrParseText off) s = .next t → t.status = 0#32 →
      Succeeds (.addrParseText off) s t.dout.toNat)

/-- `44_address.md` R410 to R414: which error a text gets, after any octets already closed: an empty
view; an invalid byte; an empty octet; an octet above 255, reported saturated; a leading zero; a
wrong count of octets. -/
def Obligations.TextParseErrors : Prop :=
  ∀ (s : State) (off : Nat) (octets : List Nat) (ds rest : List Byte), s.Inv →
    (∀ n ∈ octets, n ≤ 255) → (∀ c ∈ ds, IsDigit c) →
    (s.view off = [] → Raises (.addrParseText off) s 1 0 0) ∧
    (∀ c, ¬ IsDigit c → c ≠ 0x2E#8 → s.view off = closedText octets ++ ds ++ c :: rest →
      Raises (.addrParseText off) s 7 c.toNat octets.length) ∧
    (Closes rest → s.view off = closedText octets ++ rest → s.view off ≠ [] →
      Raises (.addrParseText off) s 6 0 octets.length) ∧
    (Closes rest → 255 < decimalValue ds → s.view off = closedText octets ++ ds ++ rest →
      Raises (.addrParseText off) s 8 (min (decimalValue ds) 0xFFFFFFFF) octets.length) ∧
    (Closes rest → 2 ≤ ds.length → ds.head? = some 0x30#8 → decimalValue ds ≤ 255 →
      s.view off = closedText octets ++ ds ++ rest →
      Raises (.addrParseText off) s 9 (decimalValue ds) octets.length) ∧
    (∀ n, n ≤ 255 → octets.length ≠ 3 → s.view off = closedText octets ++ digitsText n →
      Raises (.addrParseText off) s 6 (octets.length + 1) 0)

/-- ADDR_CLASS (`44_address.md` R406): the class by the leading bits of the first octet, with the
multicast and reserved bits. -/
def Obligations.AddressClassification : Prop :=
  EncodedN .addrClass 0x66 ∧
  ∀ s : State,
    (s.d0.toNat / 2 ^ 31 = 0b0 → Succeeds .addrClass s 0) ∧
    (s.d0.toNat / 2 ^ 30 = 0b10 → Succeeds .addrClass s 1) ∧
    (s.d0.toNat / 2 ^ 29 = 0b110 → Succeeds .addrClass s 2) ∧
    (s.d0.toNat / 2 ^ 28 = 0b1110 → Succeeds .addrClass s 0x103) ∧
    (s.d0.toNat / 2 ^ 28 = 0b1111 → Succeeds .addrClass s 0x204)

/-- `45_checksum.md` R452: the fold's loop, which strictly decreases a value it does not return, and
when it is 0xFFFF. Its closed form, and that it is 0 for 0 only, are the spec's own inference, R452
"[derived: from this rule, since 2^16 ≡ 1 (mod 0xFFFF)]". -/
def Obligations.FoldHasClosedForm : Prop :=
  ∀ n : Nat,
    fold n = (if 0xFFFF < n then fold (n % 65536 + n / 65536) else n) ∧
    (0xFFFF < n → n % 65536 + n / 65536 < n) ∧
    fold n = closedFold n ∧ fold n ≤ 0xFFFF ∧ (1 ≤ n → 1 ≤ fold n) ∧ (fold n = 0xFFFF ↔ 1 ≤ n ∧ n % 0xFFFF = 0)

/-- CSUM_COMPUTE and CSUM_VERIFY (`45_checksum.md` R453, R454), by the weighted sum of the view's
bytes and the closed form of the fold. -/
def Obligations.ChecksumCommands : Prop :=
  EncodedV .csumCompute 0x70 ∧ EncodedV .csumVerify 0x71 ∧
  ∀ (s : State) (off : Nat),
    Succeeds (.csumCompute off) s (0xFFFF - closedFold (weightedSum (s.view off))) ∧
    Succeeds (.csumVerify off) s (if closedFold (weightedSum (s.view off)) = 0xFFFF then 1 else 0)

/-- A view with a zero word, that word replaced by the computed checksum, verifies. The spec's own
inference, `45_checksum.md` R456 "[derived: from rules R450 to R454]". -/
def Obligations.ComputedChecksumVerifies : Prop :=
  ∀ (s t u : State) (off off' j : Nat),
    2 * j + 1 < (s.view off).length →
    (s.view off)[2 * j]? = some 0#8 → (s.view off)[2 * j + 1]? = some 0#8 →
    exec (.csumCompute off) s = .next t →
    u.view off' = ((s.view off).set (2 * j) (BitVec.ofNat 8 (t.dout.toNat / 256))).set (2 * j + 1)
      (BitVec.ofNat 8 (t.dout.toNat % 256)) →
    Succeeds (.csumVerify off') u 1

/-- CMP_RAW and OBUF_CLEAR (`46_control.md` R480, R481). -/
def Obligations.CompareAndClear : Prop :=
  EncodedN .cmpRaw 0x80 ∧ EncodedN .obufClear 0xF0 ∧
  ∀ s : State,
    (s.d0 = s.d1 → Succeeds .cmpRaw s 1) ∧
    (s.d0.toNat < s.d1.toNat → Succeeds .cmpRaw s 2) ∧
    (s.d1.toNat < s.d0.toNat → Succeeds .cmpRaw s 4) ∧
    exec .obufClear s = .next
      { s with status := 0#32, dout := 0#32, eval := 0#32, epos := 0#32, olen := 0#32 }

/-- `41_validated_fields.md` R250, `42_unvalidated_fields.md` R325, `44_address.md` R415: for every
serializing command, a parse of the bytes it appended gives back the value it serialized. -/
def Obligations.ParseInvertsSerialize : Prop :=
  ∀ p ∈ inversePairs, ∀ (s t u : State) (off : Nat), s.config.ok = true →
    exec p.1 s = .next t → t.status = 0#32 → u.view off = appended s t →
    Succeeds (p.2 off) u s.d0.toNat
end

