-- ==== Sys2Proof/Laws/Memory.lean ====
section
/-! SUPPORT. The laws of the buffers: a read after a write, the canonical form, and what `View` and
`Append` can do. -/

namespace Sys2Proof.Machine

@[simp] theorem Memory.find_nil (a : Nat) : Memory.find [] a = none := rfl

theorem Memory.find_store (m : Memory) (a : Nat) (b : Byte) (i : Nat) :
    Memory.find (Memory.store m a b) i = if i = a then some b else Memory.find m i := by
  induction m with
  | nil => simp [Memory.store, Memory.find]
  | cons x m ih =>
    obtain ⟨a', b'⟩ := x
    simp only [Memory.store]
    split
    · rfl
    · split
      · subst_vars
        by_cases h : i = a' <;> simp [Memory.find, h]
      · rename_i h1 h2
        simp only [Memory.find, ih]
        by_cases h : i = a'
        · have : i ≠ a := by omega
          simp [h]
          omega
        · simp [h]

@[simp] theorem Memory.find_store_self (m : Memory) (a : Nat) (b : Byte) :
    Memory.find (Memory.store m a b) a = some b := by simp [Memory.find_store]

theorem Memory.find_store_of_ne {m : Memory} {a i : Nat} {b : Byte} (h : i ≠ a) :
    Memory.find (Memory.store m a b) i = Memory.find m i := by simp [Memory.find_store, h]

/-- Every entry of a store is the new one or an old one. -/
theorem Memory.mem_store {m : Memory} {a : Nat} {b : Byte} {x : Host.Cell}
    (h : x ∈ Memory.store m a b) : x = (a, b) ∨ x ∈ m := by
  induction m with
  | nil => simpa [Memory.store] using h
  | cons y m ih =>
    obtain ⟨a', b'⟩ := y
    simp only [Memory.store] at h
    split at h
    · simpa using h
    · split at h
      · rcases List.mem_cons.1 h with h | h
        · exact .inl h
        · exact .inr (List.mem_cons_of_mem _ h)
      · rcases List.mem_cons.1 h with h | h
        · exact .inr (h ▸ List.mem_cons_self)
        · exact (ih h).imp_right (List.mem_cons_of_mem _)

/-- A store keeps the canonical form. -/
theorem Memory.store_wf {m : Memory} (a : Nat) (b : Byte) (h : Memory.wf m) :
    Memory.wf (Memory.store m a b) := by
  induction m with
  | nil => simp [Memory.store, Memory.wf]
  | cons y m ih =>
    obtain ⟨a', b'⟩ := y
    have ⟨h1, h2⟩ := List.pairwise_cons.1 h
    simp only [Memory.store]
    split
    · refine List.pairwise_cons.2 ⟨?_, h⟩
      intro x hx
      rcases List.mem_cons.1 hx with rfl | hx
      · assumption
      · have := h1 x hx
        simp only at *
        omega
    · split
      · subst_vars
        exact List.pairwise_cons.2 ⟨fun x hx => h1 x hx, h2⟩
      · refine List.pairwise_cons.2 ⟨?_, ih h2⟩
        intro x hx
        rcases Memory.mem_store hx with rfl | hx
        · simp only
          omega
        · exact h1 x hx

theorem Memory.store_below {m : Memory} {a n : Nat} (b : Byte) (h : Memory.below m n) (ha : a < n) :
    Memory.below (Memory.store m a b) n := by
  intro x hx
  rcases Memory.mem_store hx with rfl | hx
  · exact ha
  · exact h x hx

/-- The bytes of `L` stand at `a`, `a + 1`, and so on; every other index reads as before. -/
theorem Memory.find_storeList (L : List Byte) (m : Memory) (a i : Nat) :
    Memory.find (Memory.storeList m a L) i =
      if a ≤ i ∧ i < a + L.length then L[i - a]? else Memory.find m i := by
  induction L generalizing m a with
  | nil =>
    simp [Memory.storeList]
  | cons b L ih =>
    simp only [Memory.storeList, ih, Memory.find_store, List.length_cons]
    by_cases h : i = a
    · subst h
      simp
    · by_cases h3 : a + 1 ≤ i ∧ i < a + 1 + L.length
      · have h4 : a ≤ i ∧ i < a + (L.length + 1) := by omega
        have h5 : i - a = (i - (a + 1)) + 1 := by omega
        simp only [h3, h4, and_self, if_true, h5, List.getElem?_cons_succ]
      · have h4 : ¬(a ≤ i ∧ i < a + (L.length + 1)) := by omega
        simp only [h3, h4, if_false, h]

theorem Memory.storeList_wf (L : List Byte) {m : Memory} (a : Nat) (h : Memory.wf m) :
    Memory.wf (Memory.storeList m a L) := by
  induction L generalizing m a with
  | nil => exact h
  | cons b L ih => exact ih _ (Memory.store_wf _ _ h)

theorem Memory.storeList_below (L : List Byte) {m : Memory} {a n : Nat} (h : Memory.below m n)
    (ha : a + L.length ≤ n) : Memory.below (Memory.storeList m a L) n := by
  induction L generalizing m a with
  | nil => exact h
  | cons b L ih =>
    simp only [List.length_cons] at ha
    exact ih (Memory.store_below b h (by omega)) (by omega)

/-- The length of a view (`20_memory.md` R76). -/
@[simp] theorem State.view_length (s : State) (off : Nat) :
    (s.view off).length = s.ilen.toNat - off := by simp [State.view]

/-- A byte of a view (`20_memory.md` R76). -/
theorem State.view_getElem? (s : State) (off j : Nat) :
    (s.view off)[j]? = if j < s.ilen.toNat - off then some (s.ibufByte (off + j)) else none := by
  by_cases h : j < s.ilen.toNat - off <;> simp [State.view, h]

/-- Everything `Append` can do (`20_memory.md` R79). -/
theorem State.append_cases (s : State) (L : List Byte) :
    (s.config.obufSize < s.olen.toNat + L.length ∧ s.append L = .error ⟨.bufferFull, L.length, 0⟩) ∨
    (s.olen.toNat + L.length ≤ s.config.obufSize ∧
      s.append L = .ok { s with
        obuf := Memory.storeList s.obuf s.olen.toNat L
        olen := BitVec.ofNat 32 (s.olen.toNat + L.length) }) := by
  unfold State.append
  split
  · exact .inl ⟨by assumption, rfl⟩
  · exact .inr ⟨by omega, rfl⟩

/-- OBUF after a store of `L` at `a` (`20_memory.md` R79). -/
theorem State.obufByte_storeList (s : State) (L : List Byte) (a i : Nat) (o : Word) :
    State.obufByte { s with obuf := Memory.storeList s.obuf a L, olen := o } i =
      if h : a ≤ i ∧ i < a + L.length then L[i - a]'(by omega) else s.obufByte i := by
  unfold State.obufByte
  simp only [Memory.find_storeList]
  split
  · rename_i h
    have : i - a < L.length := by omega
    simp [this]
  · rfl

/-- IBUF after a host write at `a` (`10_state.md` R41). -/
theorem State.ibufByte_store (s : State) (a i : Nat) (b : Byte) :
    State.ibufByte { s with ibuf := Memory.store s.ibuf a b } i =
      if i = a then b else s.ibufByte i := by
  unfold State.ibufByte
  simp only [Memory.find_store]
  split <;> rfl

end Sys2Proof.Machine
end

