-- ==== Sys2Proof/Laws/State.lean ====
section
/-! SUPPORT. One lemma per field per named update of State, so that no proof unfolds an update. -/

namespace Sys2Proof.Machine

@[simp] theorem State.succeed_config (s : State) (v : Nat) : (s.succeed v).config = s.config := rfl
@[simp] theorem State.succeed_cmd (s : State) (v : Nat) : (s.succeed v).cmd = s.cmd := rfl
@[simp] theorem State.succeed_status (s : State) (v : Nat) : (s.succeed v).status = 0#32 := rfl
@[simp] theorem State.succeed_d0 (s : State) (v : Nat) : (s.succeed v).d0 = s.d0 := rfl
@[simp] theorem State.succeed_d1 (s : State) (v : Nat) : (s.succeed v).d1 = s.d1 := rfl
@[simp] theorem State.succeed_dout (s : State) (v : Nat) : (s.succeed v).dout = BitVec.ofNat 32 v := rfl
@[simp] theorem State.succeed_eval (s : State) (v : Nat) : (s.succeed v).eval = 0#32 := rfl
@[simp] theorem State.succeed_epos (s : State) (v : Nat) : (s.succeed v).epos = 0#32 := rfl
@[simp] theorem State.succeed_ilen (s : State) (v : Nat) : (s.succeed v).ilen = s.ilen := rfl
@[simp] theorem State.succeed_olen (s : State) (v : Nat) : (s.succeed v).olen = s.olen := rfl
@[simp] theorem State.succeed_ibuf (s : State) (v : Nat) : (s.succeed v).ibuf = s.ibuf := rfl
@[simp] theorem State.succeed_obuf (s : State) (v : Nat) : (s.succeed v).obuf = s.obuf := rfl
@[simp] theorem State.succeed_pending (s : State) (v : Nat) : (s.succeed v).pending = s.pending := rfl
@[simp] theorem State.succeed_returned (s : State) (v : Nat) : (s.succeed v).returned = s.returned := rfl
@[simp] theorem State.succeed_resets (s : State) (v : Nat) : (s.succeed v).resets = s.resets := rfl

@[simp] theorem State.raise_config (s : State) (r : Raise) : (s.raise r).config = s.config := rfl
@[simp] theorem State.raise_cmd (s : State) (r : Raise) : (s.raise r).cmd = s.cmd := rfl
@[simp] theorem State.raise_status (s : State) (r : Raise) : (s.raise r).status = statusWord r.code := rfl
@[simp] theorem State.raise_d0 (s : State) (r : Raise) : (s.raise r).d0 = s.d0 := rfl
@[simp] theorem State.raise_d1 (s : State) (r : Raise) : (s.raise r).d1 = s.d1 := rfl
@[simp] theorem State.raise_dout (s : State) (r : Raise) : (s.raise r).dout = 0#32 := rfl
@[simp] theorem State.raise_eval (s : State) (r : Raise) : (s.raise r).eval = BitVec.ofNat 32 r.val := rfl
@[simp] theorem State.raise_epos (s : State) (r : Raise) : (s.raise r).epos = (BitVec.ofNat 16 r.pos).setWidth 32 := rfl
@[simp] theorem State.raise_ilen (s : State) (r : Raise) : (s.raise r).ilen = s.ilen := rfl
@[simp] theorem State.raise_olen (s : State) (r : Raise) : (s.raise r).olen = s.olen := rfl
@[simp] theorem State.raise_ibuf (s : State) (r : Raise) : (s.raise r).ibuf = s.ibuf := rfl
@[simp] theorem State.raise_obuf (s : State) (r : Raise) : (s.raise r).obuf = s.obuf := rfl
@[simp] theorem State.raise_pending (s : State) (r : Raise) : (s.raise r).pending = s.pending := rfl
@[simp] theorem State.raise_returned (s : State) (r : Raise) : (s.raise r).returned = s.returned := rfl
@[simp] theorem State.raise_resets (s : State) (r : Raise) : (s.raise r).resets = s.resets := rfl

@[simp] theorem State.clearOutput_config (s : State) : (s.clearOutput).config = s.config := rfl
@[simp] theorem State.clearOutput_cmd (s : State) : (s.clearOutput).cmd = s.cmd := rfl
@[simp] theorem State.clearOutput_status (s : State) : (s.clearOutput).status = s.status := rfl
@[simp] theorem State.clearOutput_d0 (s : State) : (s.clearOutput).d0 = s.d0 := rfl
@[simp] theorem State.clearOutput_d1 (s : State) : (s.clearOutput).d1 = s.d1 := rfl
@[simp] theorem State.clearOutput_dout (s : State) : (s.clearOutput).dout = s.dout := rfl
@[simp] theorem State.clearOutput_eval (s : State) : (s.clearOutput).eval = s.eval := rfl
@[simp] theorem State.clearOutput_epos (s : State) : (s.clearOutput).epos = s.epos := rfl
@[simp] theorem State.clearOutput_ilen (s : State) : (s.clearOutput).ilen = s.ilen := rfl
@[simp] theorem State.clearOutput_olen (s : State) : (s.clearOutput).olen = 0#32 := rfl
@[simp] theorem State.clearOutput_ibuf (s : State) : (s.clearOutput).ibuf = s.ibuf := rfl
@[simp] theorem State.clearOutput_obuf (s : State) : (s.clearOutput).obuf = s.obuf := rfl
@[simp] theorem State.clearOutput_pending (s : State) : (s.clearOutput).pending = s.pending := rfl
@[simp] theorem State.clearOutput_returned (s : State) : (s.clearOutput).returned = s.returned := rfl
@[simp] theorem State.clearOutput_resets (s : State) : (s.clearOutput).resets = s.resets := rfl

@[simp] theorem State.writeIlen_config (s : State) (v : Word) : (s.writeIlen v).config = s.config := rfl
@[simp] theorem State.writeIlen_cmd (s : State) (v : Word) : (s.writeIlen v).cmd = s.cmd := rfl
@[simp] theorem State.writeIlen_status (s : State) (v : Word) : (s.writeIlen v).status = s.status := rfl
@[simp] theorem State.writeIlen_d0 (s : State) (v : Word) : (s.writeIlen v).d0 = s.d0 := rfl
@[simp] theorem State.writeIlen_d1 (s : State) (v : Word) : (s.writeIlen v).d1 = s.d1 := rfl
@[simp] theorem State.writeIlen_dout (s : State) (v : Word) : (s.writeIlen v).dout = s.dout := rfl
@[simp] theorem State.writeIlen_eval (s : State) (v : Word) : (s.writeIlen v).eval = s.eval := rfl
@[simp] theorem State.writeIlen_epos (s : State) (v : Word) : (s.writeIlen v).epos = s.epos := rfl
@[simp] theorem State.writeIlen_ilen (s : State) (v : Word) : (s.writeIlen v).ilen = BitVec.ofNat 32 (min v.toNat s.config.ibufSize) := rfl
@[simp] theorem State.writeIlen_olen (s : State) (v : Word) : (s.writeIlen v).olen = s.olen := rfl
@[simp] theorem State.writeIlen_ibuf (s : State) (v : Word) : (s.writeIlen v).ibuf = s.ibuf := rfl
@[simp] theorem State.writeIlen_obuf (s : State) (v : Word) : (s.writeIlen v).obuf = s.obuf := rfl
@[simp] theorem State.writeIlen_pending (s : State) (v : Word) : (s.writeIlen v).pending = s.pending := rfl
@[simp] theorem State.writeIlen_returned (s : State) (v : Word) : (s.writeIlen v).returned = s.returned := rfl
@[simp] theorem State.writeIlen_resets (s : State) (v : Word) : (s.writeIlen v).resets = s.resets := rfl

@[simp] theorem State.answer_config (s : State) (v : ReadValue) : (s.answer v).config = s.config := rfl
@[simp] theorem State.answer_cmd (s : State) (v : ReadValue) : (s.answer v).cmd = s.cmd := rfl
@[simp] theorem State.answer_status (s : State) (v : ReadValue) : (s.answer v).status = s.status := rfl
@[simp] theorem State.answer_d0 (s : State) (v : ReadValue) : (s.answer v).d0 = s.d0 := rfl
@[simp] theorem State.answer_d1 (s : State) (v : ReadValue) : (s.answer v).d1 = s.d1 := rfl
@[simp] theorem State.answer_dout (s : State) (v : ReadValue) : (s.answer v).dout = s.dout := rfl
@[simp] theorem State.answer_eval (s : State) (v : ReadValue) : (s.answer v).eval = s.eval := rfl
@[simp] theorem State.answer_epos (s : State) (v : ReadValue) : (s.answer v).epos = s.epos := rfl
@[simp] theorem State.answer_ilen (s : State) (v : ReadValue) : (s.answer v).ilen = s.ilen := rfl
@[simp] theorem State.answer_olen (s : State) (v : ReadValue) : (s.answer v).olen = s.olen := rfl
@[simp] theorem State.answer_ibuf (s : State) (v : ReadValue) : (s.answer v).ibuf = s.ibuf := rfl
@[simp] theorem State.answer_obuf (s : State) (v : ReadValue) : (s.answer v).obuf = s.obuf := rfl
@[simp] theorem State.answer_pending (s : State) (v : ReadValue) : (s.answer v).pending = s.pending := rfl
@[simp] theorem State.answer_returned (s : State) (v : ReadValue) : (s.answer v).returned = s.returned ++ [v] := rfl
@[simp] theorem State.answer_resets (s : State) (v : ReadValue) : (s.answer v).resets = s.resets := rfl

@[simp] theorem State.withFetchWord_config (s : State) (nbits w : Nat) : (s.withFetchWord nbits w).config = s.config := rfl
@[simp] theorem State.withFetchWord_cmd (s : State) (nbits w : Nat) : (s.withFetchWord nbits w).cmd = s.cmd := rfl
@[simp] theorem State.withFetchWord_status (s : State) (nbits w : Nat) : (s.withFetchWord nbits w).status = s.status := rfl
@[simp] theorem State.withFetchWord_d0 (s : State) (nbits w : Nat) : (s.withFetchWord nbits w).d0 = s.d0 := rfl
@[simp] theorem State.withFetchWord_d1 (s : State) (nbits w : Nat) : (s.withFetchWord nbits w).d1 = s.d1 := rfl
@[simp] theorem State.withFetchWord_dout (s : State) (nbits w : Nat) : (s.withFetchWord nbits w).dout = s.dout := rfl
@[simp] theorem State.withFetchWord_eval (s : State) (nbits w : Nat) : (s.withFetchWord nbits w).eval = s.eval := rfl
@[simp] theorem State.withFetchWord_epos (s : State) (nbits w : Nat) : (s.withFetchWord nbits w).epos = s.epos := rfl
@[simp] theorem State.withFetchWord_ilen (s : State) (nbits w : Nat) : (s.withFetchWord nbits w).ilen = s.ilen := rfl
@[simp] theorem State.withFetchWord_olen (s : State) (nbits w : Nat) : (s.withFetchWord nbits w).olen = s.olen := rfl
@[simp] theorem State.withFetchWord_ibuf (s : State) (nbits w : Nat) : (s.withFetchWord nbits w).ibuf = s.ibuf := rfl
@[simp] theorem State.withFetchWord_obuf (s : State) (nbits w : Nat) : (s.withFetchWord nbits w).obuf = s.obuf := rfl
@[simp] theorem State.withFetchWord_pending (s : State) (nbits w : Nat) : (s.withFetchWord nbits w).pending = commandEvent s.config (BitVec.ofNat 32 (w % 2 ^ nbits)) :: s.pending := rfl
@[simp] theorem State.withFetchWord_returned (s : State) (nbits w : Nat) : (s.withFetchWord nbits w).returned = s.returned := rfl
@[simp] theorem State.withFetchWord_resets (s : State) (nbits w : Nat) : (s.withFetchWord nbits w).resets = s.resets := rfl

@[simp] theorem State.platformReset_config (s : State) : (s.platformReset).config = s.config := rfl
@[simp] theorem State.platformReset_cmd (s : State) : (s.platformReset).cmd = 0#32 := rfl
@[simp] theorem State.platformReset_status (s : State) : (s.platformReset).status = 15#32 := rfl
@[simp] theorem State.platformReset_d0 (s : State) : (s.platformReset).d0 = 0#32 := rfl
@[simp] theorem State.platformReset_d1 (s : State) : (s.platformReset).d1 = 0#32 := rfl
@[simp] theorem State.platformReset_dout (s : State) : (s.platformReset).dout = 0#32 := rfl
@[simp] theorem State.platformReset_eval (s : State) : (s.platformReset).eval = 0#32 := rfl
@[simp] theorem State.platformReset_epos (s : State) : (s.platformReset).epos = 0#32 := rfl
@[simp] theorem State.platformReset_ilen (s : State) : (s.platformReset).ilen = 0#32 := rfl
@[simp] theorem State.platformReset_olen (s : State) : (s.platformReset).olen = 0#32 := rfl
@[simp] theorem State.platformReset_ibuf (s : State) : (s.platformReset).ibuf = [] := rfl
@[simp] theorem State.platformReset_obuf (s : State) : (s.platformReset).obuf = [] := rfl
@[simp] theorem State.platformReset_pending (s : State) : (s.platformReset).pending = s.pending := rfl
@[simp] theorem State.platformReset_returned (s : State) : (s.platformReset).returned = s.returned := rfl
@[simp] theorem State.platformReset_resets (s : State) : (s.platformReset).resets = s.resets + 1 := rfl

@[simp] theorem State.conclude_config (s : State) (x : Except Raise Nat) : (s.conclude x).config = s.config := by cases x <;> rfl
@[simp] theorem State.conclude_cmd (s : State) (x : Except Raise Nat) : (s.conclude x).cmd = s.cmd := by cases x <;> rfl
@[simp] theorem State.conclude_d0 (s : State) (x : Except Raise Nat) : (s.conclude x).d0 = s.d0 := by cases x <;> rfl
@[simp] theorem State.conclude_d1 (s : State) (x : Except Raise Nat) : (s.conclude x).d1 = s.d1 := by cases x <;> rfl
@[simp] theorem State.conclude_ilen (s : State) (x : Except Raise Nat) : (s.conclude x).ilen = s.ilen := by cases x <;> rfl
@[simp] theorem State.conclude_olen (s : State) (x : Except Raise Nat) : (s.conclude x).olen = s.olen := by cases x <;> rfl
@[simp] theorem State.conclude_ibuf (s : State) (x : Except Raise Nat) : (s.conclude x).ibuf = s.ibuf := by cases x <;> rfl
@[simp] theorem State.conclude_obuf (s : State) (x : Except Raise Nat) : (s.conclude x).obuf = s.obuf := by cases x <;> rfl
@[simp] theorem State.conclude_pending (s : State) (x : Except Raise Nat) : (s.conclude x).pending = s.pending := by cases x <;> rfl
@[simp] theorem State.conclude_returned (s : State) (x : Except Raise Nat) : (s.conclude x).returned = s.returned := by cases x <;> rfl
@[simp] theorem State.conclude_resets (s : State) (x : Except Raise Nat) : (s.conclude x).resets = s.resets := by cases x <;> rfl

@[simp] theorem State.emit_config (s : State) (x : Except Raise (List Byte)) : (s.emit x).config = s.config := by
  cases x with
  | error r => rfl
  | ok L =>
    simp only [State.emit]
    unfold State.append
    split <;> rename_i h <;> split at h <;> cases h <;> rfl
@[simp] theorem State.emit_cmd (s : State) (x : Except Raise (List Byte)) : (s.emit x).cmd = s.cmd := by
  cases x with
  | error r => rfl
  | ok L =>
    simp only [State.emit]
    unfold State.append
    split <;> rename_i h <;> split at h <;> cases h <;> rfl
@[simp] theorem State.emit_d0 (s : State) (x : Except Raise (List Byte)) : (s.emit x).d0 = s.d0 := by
  cases x with
  | error r => rfl
  | ok L =>
    simp only [State.emit]
    unfold State.append
    split <;> rename_i h <;> split at h <;> cases h <;> rfl
@[simp] theorem State.emit_d1 (s : State) (x : Except Raise (List Byte)) : (s.emit x).d1 = s.d1 := by
  cases x with
  | error r => rfl
  | ok L =>
    simp only [State.emit]
    unfold State.append
    split <;> rename_i h <;> split at h <;> cases h <;> rfl
@[simp] theorem State.emit_ilen (s : State) (x : Except Raise (List Byte)) : (s.emit x).ilen = s.ilen := by
  cases x with
  | error r => rfl
  | ok L =>
    simp only [State.emit]
    unfold State.append
    split <;> rename_i h <;> split at h <;> cases h <;> rfl
@[simp] theorem State.emit_ibuf (s : State) (x : Except Raise (List Byte)) : (s.emit x).ibuf = s.ibuf := by
  cases x with
  | error r => rfl
  | ok L =>
    simp only [State.emit]
    unfold State.append
    split <;> rename_i h <;> split at h <;> cases h <;> rfl
@[simp] theorem State.emit_pending (s : State) (x : Except Raise (List Byte)) : (s.emit x).pending = s.pending := by
  cases x with
  | error r => rfl
  | ok L =>
    simp only [State.emit]
    unfold State.append
    split <;> rename_i h <;> split at h <;> cases h <;> rfl
@[simp] theorem State.emit_returned (s : State) (x : Except Raise (List Byte)) : (s.emit x).returned = s.returned := by
  cases x with
  | error r => rfl
  | ok L =>
    simp only [State.emit]
    unfold State.append
    split <;> rename_i h <;> split at h <;> cases h <;> rfl
@[simp] theorem State.emit_resets (s : State) (x : Except Raise (List Byte)) : (s.emit x).resets = s.resets := by
  cases x with
  | error r => rfl
  | ok L =>
    simp only [State.emit]
    unfold State.append
    split <;> rename_i h <;> split at h <;> cases h <;> rfl

@[simp] theorem State.ibufWrite_config (s : State) (i : Nat) (b : Byte) : (s.ibufWrite i b).config = s.config := by
  unfold State.ibufWrite; split <;> rfl
@[simp] theorem State.ibufWrite_cmd (s : State) (i : Nat) (b : Byte) : (s.ibufWrite i b).cmd = s.cmd := by
  unfold State.ibufWrite; split <;> rfl
@[simp] theorem State.ibufWrite_status (s : State) (i : Nat) (b : Byte) : (s.ibufWrite i b).status = s.status := by
  unfold State.ibufWrite; split <;> rfl
@[simp] theorem State.ibufWrite_d0 (s : State) (i : Nat) (b : Byte) : (s.ibufWrite i b).d0 = s.d0 := by
  unfold State.ibufWrite; split <;> rfl
@[simp] theorem State.ibufWrite_d1 (s : State) (i : Nat) (b : Byte) : (s.ibufWrite i b).d1 = s.d1 := by
  unfold State.ibufWrite; split <;> rfl
@[simp] theorem State.ibufWrite_dout (s : State) (i : Nat) (b : Byte) : (s.ibufWrite i b).dout = s.dout := by
  unfold State.ibufWrite; split <;> rfl
@[simp] theorem State.ibufWrite_eval (s : State) (i : Nat) (b : Byte) : (s.ibufWrite i b).eval = s.eval := by
  unfold State.ibufWrite; split <;> rfl
@[simp] theorem State.ibufWrite_epos (s : State) (i : Nat) (b : Byte) : (s.ibufWrite i b).epos = s.epos := by
  unfold State.ibufWrite; split <;> rfl
@[simp] theorem State.ibufWrite_ilen (s : State) (i : Nat) (b : Byte) : (s.ibufWrite i b).ilen = s.ilen := by
  unfold State.ibufWrite; split <;> rfl
@[simp] theorem State.ibufWrite_olen (s : State) (i : Nat) (b : Byte) : (s.ibufWrite i b).olen = s.olen := by
  unfold State.ibufWrite; split <;> rfl
@[simp] theorem State.ibufWrite_obuf (s : State) (i : Nat) (b : Byte) : (s.ibufWrite i b).obuf = s.obuf := by
  unfold State.ibufWrite; split <;> rfl
@[simp] theorem State.ibufWrite_pending (s : State) (i : Nat) (b : Byte) : (s.ibufWrite i b).pending = s.pending := by
  unfold State.ibufWrite; split <;> rfl
@[simp] theorem State.ibufWrite_returned (s : State) (i : Nat) (b : Byte) : (s.ibufWrite i b).returned = s.returned := by
  unfold State.ibufWrite; split <;> rfl
@[simp] theorem State.ibufWrite_resets (s : State) (i : Nat) (b : Byte) : (s.ibufWrite i b).resets = s.resets := by
  unfold State.ibufWrite; split <;> rfl

end Sys2Proof.Machine
end

