-- ==== Sys2Proof/Laws/Outcomes.lean ====
section
/-! SUPPORT. What each shared operation of the commands can do: operand fetch, field check, parse,
and the two ways a command ends. -/

namespace Sys2Proof.Machine

/-- Everything `Operand(F)` can do (`30_encoding.md` R105). -/
theorem State.operand_cases (s : State) (f : Field) :
    (2 ^ f.storageWidth ≤ s.d0.toNat ∧ s.operand f = .error ⟨.operandTooWide, s.d0.toNat, 0⟩) ∨
    (s.d0.toNat < 2 ^ f.storageWidth ∧ s.operand f = .ok s.d0.toNat) := by
  unfold State.operand
  split
  · exact .inl ⟨by assumption, rfl⟩
  · exact .inr ⟨by omega, rfl⟩

/-- The operand fetch of an address never fails (`30_encoding.md` R105). -/
@[simp] theorem State.operand_addr (s : State) : s.operand .addr = .ok s.d0.toNat := by
  have h : ¬ 2 ^ Field.addr.storageWidth ≤ s.d0.toNat := by
    have := s.d0.isLt
    simp only [Field.storageWidth]
    omega
  simp [State.operand, h]

/-- A check that passes never changes the value (`10_state.md` section 4, "No check ever changes a
value"). -/
theorem Field.check_ok {f : Field} {v w : Nat} (h : f.check v = .ok w) : w = v := by
  cases f <;> simp only [Field.check] at h <;> (repeat' split at h) <;> cases h <;> rfl

/-- What a failed check reports: one of three codes, the value itself, position 0 (`10_state.md`
R47 to R54). -/
theorem Field.check_error {f : Field} {v : Nat} {r : Raise} (h : f.check v = .error r) :
    (r.code = .tooSmall ∨ r.code = .valueOutOfRange ∨ r.code = .reservedBitSet) ∧
      r.val = v ∧ r.pos = 0 := by
  cases f <;> simp only [Field.check] at h <;> (repeat' split at h) <;> cases h <;> simp

/-- `Operand(F)` and `Check_F` leave D0's value or raise (`41_validated_fields.md` R200). -/
theorem State.validated_ok {s : State} {f : Field} {v : Nat} (h : s.validated f = .ok v) :
    v = s.d0.toNat ∧ s.d0.toNat < 2 ^ f.storageWidth ∧ f.check s.d0.toNat = .ok s.d0.toNat := by
  unfold State.validated at h
  rcases s.operand_cases f with ⟨_, he⟩ | ⟨hlt, he⟩ <;> rw [he] at h
  · cases h
  · have hv := Field.check_ok h
    exact ⟨hv, hlt, by rw [← hv] at h ⊢; exact h⟩

@[simp] theorem State.conclude_ok (s : State) (v : Nat) : s.conclude (.ok v) = s.succeed v := rfl

@[simp] theorem State.conclude_error (s : State) (r : Raise) :
    s.conclude (.error r) = s.raise r := rfl

@[simp] theorem State.emit_error (s : State) (r : Raise) : s.emit (.error r) = s.raise r := rfl

/-- The end of a serializing command with no room: BUFFER_FULL(len(L), 0) (`20_memory.md` R79). -/
theorem State.emit_full {s : State} {L : List Byte} (h : s.config.obufSize < s.olen.toNat + L.length) :
    s.emit (.ok L) = s.raise ⟨.bufferFull, L.length, 0⟩ := by
  simp [State.emit, State.append, h]

/-- The end of a serializing command with room (`20_memory.md` R79, `60_exceptions.md` R502). -/
theorem State.emit_room {s : State} {L : List Byte}
    (h : s.olen.toNat + L.length ≤ s.config.obufSize) :
    s.emit (.ok L) = State.succeed { s with
      obuf := Memory.storeList s.obuf s.olen.toNat L
      olen := BitVec.ofNat 32 (s.olen.toNat + L.length) } L.length := by
  have : ¬ s.config.obufSize < s.olen.toNat + L.length := by omega
  simp [State.emit, State.append, this]

/-- EPOS holds every position below 2^16 whole (`10_state.md` R37, log 13). -/
theorem position_fits {p : Nat} (h : p < 65536) :
    (BitVec.ofNat 16 p).setWidth 32 = BitVec.ofNat 32 p := by
  apply BitVec.eq_of_toNat_eq
  simp
  omega

/-- One more pass of the fold, or none (`45_checksum.md` R452). -/
theorem foldPass_lt {n : Nat} (h : 0xFFFF < n) : foldPass n < n := by
  have h1 : n &&& 0xFFFF = n % 65536 := Nat.and_two_pow_sub_one_eq_mod n 16
  have h2 : n >>> 16 = n / 65536 := Nat.shiftRight_eq_div_pow n 16
  simp only [foldPass, h1, h2]
  omega

/-- Enough passes reach a value that fits in 16 bits (`45_checksum.md` R452). -/
theorem foldWithin_le {fuel n : Nat} (h : n ≤ fuel + 0xFFFF) : foldWithin fuel n ≤ 0xFFFF := by
  induction fuel generalizing n with
  | zero => simpa [foldWithin] using h
  | succ k ih =>
    simp only [foldWithin]
    split
    · have := foldPass_lt (by assumption : 0xFFFF < n)
      exact ih (by omega)
    · omega

end Sys2Proof.Machine
end

