-- ==== Sys2Proof/Laws/Commands.lean ====
section
/-! SUPPORT. Every command in one of three shapes: it concludes with a value or a raise, it appends
bytes or raises, or it clears the output. -/

namespace Sys2Proof.Laws

open Sys2Proof Sys2Proof.Machine

/-- The commands that append to OBUF (`60_exceptions.md` R505, code 12). -/
def appends : Instr → Bool
  | .verSer | .ihlSer | .precSer | .tlenSer | .flagsSer | .foffSer | .tosSer | .ttlSer
  | .protoSer | .identSer | .hcsumSer | .addrSerBin | .addrFormatText => true
  | _ => false

/-- The view offset of a format V command (`30_encoding.md` R102). -/
def viewOffset : Instr → Nat
  | .verParse off | .ihlParse off | .precParse off | .tlenParse off | .flagsParse off
  | .foffParse off | .tosParse off | .ttlParse off | .protoParse off | .identParse off
  | .hcsumParse off | .addrParseBin off | .addrParseText off | .csumCompute off
  | .csumVerify off => off
  | _ => 0

/-- The field of a `_RAW` or a `_SER` command, in storage order; `addr` elsewhere. -/
def fieldOf : Instr → Field
  | .verRaw | .verSer => .version
  | .ihlRaw | .ihlSer => .ihl
  | .precRaw | .precSer => .prec
  | .tlenRaw | .tlenSer => .tlen
  | .flagsRaw | .flagsSer => .flags
  | .foffRaw | .foffSer => .foff
  | .tosRaw | .tosSer => .tos
  | .ttlRaw | .ttlSer => .ttl
  | .protoRaw | .protoSer => .proto
  | .identRaw | .identSer => .ident
  | .hcsumRaw | .hcsumSer => .hcsum
  | _ => .addr

/-- What a command that appends nothing concludes with: a function of D0, D1 and the view alone. -/
def conclusion (i : Instr) (s : State) (V : List Byte) : Except Raise Nat :=
  match i with
  | .verParse _ => parseByte .version V
  | .ihlParse _ => parseByte .ihl V
  | .precParse _ => parseByte .prec V
  | .flagsParse _ => parseByte .flags V
  | .tosParse _ => parseByte .tos V
  | .ttlParse _ => parseByte .ttl V
  | .protoParse _ => parseByte .proto V
  | .tlenParse _ => parsePair .tlen V
  | .foffParse _ => parsePair .foff V
  | .identParse _ => parsePair .ident V
  | .hcsumParse _ => parsePair .hcsum V
  | .addrParseBin _ => parseQuad V
  | .addrParseText _ => parseText V
  | .ihlBytelen => (s.validated .ihl).map ihlByteLength
  | .ihlOptlen => (s.validated .ihl).map (fun v => v * 4 - 20)
  | .ihlFromBytelen => ihlOfByteLength s.d0.toNat
  | .ttlExpired => (s.operand .ttl).map (fun v => if v = 0 then 1 else 0)
  | .ttlDec => (s.operand .ttl).bind ttlDecrement
  | .tosPack prec ld ht hr => .ok (packTos prec ld ht hr)
  | .tosUnpack => (s.validated .tos).map unpackTos
  | .flagsPack df mf => .ok (packFlags df mf)
  | .flagsUnpack => (s.validated .flags).map unpackFlags
  | .addrOctets => .ok (addressOfLanes s.d0.toNat)
  | .addrClass => (s.operand .addr).map (fun v => classLanes (octetOf v 24))
  | .csumCompute _ => .ok (0xFFFF ^^^ fold (wordSum V))
  | .csumVerify _ => .ok (if fold (wordSum V) = 0xFFFF then 1 else 0)
  | .cmpRaw => .ok (compareLanes s.d0 s.d1)
  | i => s.validated (fieldOf i)

/-- The bytes a command that appends offers, or what it raises before. -/
def output (i : Instr) (s : State) : Except Raise (List Byte) :=
  match i with
  | .addrFormatText => (s.operand .addr).map addressText
  | i => (s.validated (fieldOf i)).map (fieldOf i).wire

theorem exec_concludes {i : Instr} (ha : appends i = false) (hc : i ≠ .obufClear) (s : State) :
    exec i s = .next (s.conclude (conclusion i s (s.view (viewOffset i)))) := by
  cases i <;> first | exact absurd rfl hc | rfl | cases ha

theorem exec_emits {i : Instr} (ha : appends i = true) (s : State) :
    exec i s = .next (s.emit (output i s)) := by
  cases i <;> first | rfl | cases ha

/-- Everything the end of a serializing command can do (`20_memory.md` R79). -/
theorem emit_cases (s : State) (x : Except Raise (List Byte)) :
    (∃ r, s.emit x = s.raise r ∧
      (x = .error r ∨ ∃ L, x = .ok L ∧ r = ⟨.bufferFull, L.length, 0⟩)) ∨
    (∃ L, x = .ok L ∧ s.olen.toNat + L.length ≤ s.config.obufSize ∧
      s.emit x = State.succeed { s with
        obuf := Memory.storeList s.obuf s.olen.toNat L
        olen := BitVec.ofNat 32 (s.olen.toNat + L.length) } L.length) := by
  cases x with
  | error r => exact .inl ⟨r, rfl, .inl rfl⟩
  | ok L =>
    by_cases h : s.config.obufSize < s.olen.toNat + L.length
    · exact .inl ⟨_, State.emit_full h, .inr ⟨L, rfl, rfl⟩⟩
    · exact .inr ⟨L, rfl, by omega, State.emit_room (by omega)⟩

/-! The field checks, one equation per field (`10_state.md` R47 to R58). -/

theorem check_version (v : Nat) : Field.check .version v =
    if 15 < v then .error ⟨.valueOutOfRange, v, 0⟩ else .ok v := rfl
theorem check_ihl (v : Nat) : Field.check .ihl v =
    if v < 5 then .error ⟨.tooSmall, v, 0⟩
    else if 15 < v then .error ⟨.valueOutOfRange, v, 0⟩ else .ok v := rfl
theorem check_tos (v : Nat) : Field.check .tos v =
    if v &&& 0b11 ≠ 0 then .error ⟨.reservedBitSet, v, 0⟩ else .ok v := rfl
theorem check_prec (v : Nat) : Field.check .prec v =
    if 7 < v then .error ⟨.valueOutOfRange, v, 0⟩ else .ok v := rfl
theorem check_tlen (v : Nat) : Field.check .tlen v =
    if v < 20 then .error ⟨.tooSmall, v, 0⟩ else .ok v := rfl
theorem check_flags (v : Nat) : Field.check .flags v =
    if 7 < v then .error ⟨.valueOutOfRange, v, 0⟩
    else if v &&& 0b100 ≠ 0 then .error ⟨.reservedBitSet, v, 0⟩ else .ok v := rfl
theorem check_foff (v : Nat) : Field.check .foff v =
    if 8191 < v then .error ⟨.valueOutOfRange, v, 0⟩ else .ok v := rfl
theorem check_free {f : Field} (v : Nat)
    (h : f = .ident ∨ f = .ttl ∨ f = .proto ∨ f = .hcsum ∨ f = .addr) : f.check v = .ok v := by
  rcases h with rfl | rfl | rfl | rfl | rfl <;> rfl

end Sys2Proof.Laws
end

