-- ==== Sys2Proof/Laws/PerInstr.lean ====
section
/-! SUPPORT. Facts stated per command: the fields of its word (`30_encoding.md` R100, R101). -/

namespace Sys2Proof.Laws

@[simp] theorem opcodeField_append (op : BitVec 8) (imm : BitVec 24) :
    opcodeField (op ++ imm) = op := by
  apply BitVec.eq_of_getLsbD_eq
  intro i hi
  have h : (op ++ imm).getLsbD (24 + i) = op.getLsbD i := by
    rw [BitVec.getLsbD_append]
    simp
  simpa [opcodeField, hi] using h

@[simp] theorem immField_append (op : BitVec 8) (imm : BitVec 24) :
    immField (op ++ imm) = imm := by
  apply BitVec.eq_of_getLsbD_eq
  intro i hi
  have h : (op ++ imm).getLsbD i = imm.getLsbD i := by
    rw [BitVec.getLsbD_append]
    simp [hi]
  simpa [immField, hi] using h

namespace FieldsOfWord

/-- The word of a command has the command's OPCODE in bits 31:24 and its IMM in bits 23:0. -/
def Statement (i : Instr) : Prop :=
  opcodeField (encode i) = i.opcode ∧ immField (encode i) = i.imm

theorem of_any (i : Instr) : Statement i := by simp [Statement, encode]

theorem verRaw : Statement (.verRaw) := of_any _
theorem verParse (off : Nat) : Statement (.verParse off) := of_any _
theorem verSer : Statement (.verSer) := of_any _
theorem ihlRaw : Statement (.ihlRaw) := of_any _
theorem ihlParse (off : Nat) : Statement (.ihlParse off) := of_any _
theorem ihlSer : Statement (.ihlSer) := of_any _
theorem ihlBytelen : Statement (.ihlBytelen) := of_any _
theorem ihlOptlen : Statement (.ihlOptlen) := of_any _
theorem ihlFromBytelen : Statement (.ihlFromBytelen) := of_any _
theorem tosRaw : Statement (.tosRaw) := of_any _
theorem tosParse (off : Nat) : Statement (.tosParse off) := of_any _
theorem tosSer : Statement (.tosSer) := of_any _
theorem tosPack (prec : Nat) (ld ht hr : Bool) : Statement (.tosPack prec ld ht hr) := of_any _
theorem tosUnpack : Statement (.tosUnpack) := of_any _
theorem precRaw : Statement (.precRaw) := of_any _
theorem precParse (off : Nat) : Statement (.precParse off) := of_any _
theorem precSer : Statement (.precSer) := of_any _
theorem tlenRaw : Statement (.tlenRaw) := of_any _
theorem tlenParse (off : Nat) : Statement (.tlenParse off) := of_any _
theorem tlenSer : Statement (.tlenSer) := of_any _
theorem identRaw : Statement (.identRaw) := of_any _
theorem identParse (off : Nat) : Statement (.identParse off) := of_any _
theorem identSer : Statement (.identSer) := of_any _
theorem flagsRaw : Statement (.flagsRaw) := of_any _
theorem flagsParse (off : Nat) : Statement (.flagsParse off) := of_any _
theorem flagsSer : Statement (.flagsSer) := of_any _
theorem flagsPack (df mf : Bool) : Statement (.flagsPack df mf) := of_any _
theorem flagsUnpack : Statement (.flagsUnpack) := of_any _
theorem foffRaw : Statement (.foffRaw) := of_any _
theorem foffParse (off : Nat) : Statement (.foffParse off) := of_any _
theorem foffSer : Statement (.foffSer) := of_any _
theorem ttlRaw : Statement (.ttlRaw) := of_any _
theorem ttlParse (off : Nat) : Statement (.ttlParse off) := of_any _
theorem ttlSer : Statement (.ttlSer) := of_any _
theorem ttlExpired : Statement (.ttlExpired) := of_any _
theorem ttlDec : Statement (.ttlDec) := of_any _
theorem protoRaw : Statement (.protoRaw) := of_any _
theorem protoParse (off : Nat) : Statement (.protoParse off) := of_any _
theorem protoSer : Statement (.protoSer) := of_any _
theorem hcsumRaw : Statement (.hcsumRaw) := of_any _
theorem hcsumParse (off : Nat) : Statement (.hcsumParse off) := of_any _
theorem hcsumSer : Statement (.hcsumSer) := of_any _
theorem addrRaw : Statement (.addrRaw) := of_any _
theorem addrOctets : Statement (.addrOctets) := of_any _
theorem addrParseBin (off : Nat) : Statement (.addrParseBin off) := of_any _
theorem addrSerBin : Statement (.addrSerBin) := of_any _
theorem addrParseText (off : Nat) : Statement (.addrParseText off) := of_any _
theorem addrFormatText : Statement (.addrFormatText) := of_any _
theorem addrClass : Statement (.addrClass) := of_any _
theorem csumCompute (off : Nat) : Statement (.csumCompute off) := of_any _
theorem csumVerify (off : Nat) : Statement (.csumVerify off) := of_any _
theorem cmpRaw : Statement (.cmpRaw) := of_any _
theorem obufClear : Statement (.obufClear) := of_any _

end FieldsOfWord

end Sys2Proof.Laws
end

