-- ==== Sys2Proof/Tests/Slice0.lean ====
section
/-! SUPPORT. Tests: the well-formedness checks, a decoded word for every command, single steps whose
expected results are rows of `95_test_vectors.md`, and for every obligation with hypotheses a state
and operands that meet them. -/

namespace Sys2Proof.Tests

open Sys2Proof Sys2Proof.Machine Sys2Proof.Claims

/-! ## Well-formedness -/

theorem test_wf_refuses_wide_offset : (Instr.verParse 65536).wellFormed = false := by decide

theorem test_wf_refuses_wide_precedence :
    (Instr.tosPack 8 false false false).wellFormed = false := by decide

theorem test_wf_accepts_largest :
    (Instr.csumVerify 65535).wellFormed = true ∧ (Instr.tosPack 7 true true true).wellFormed = true ∧
      (Instr.flagsPack true true).wellFormed = true := by decide

/-! ## Decoding: the words are OPCODE = bits 31:24 of `30_encoding.md` R106 with operand lanes of R102 to
R104 -/

/-- Every word decodes to the command beside it. -/
def decodesTo (words : List (Word × Instr)) : Bool :=
  words.all (fun p => decide (decode p.1 = .ok p.2))

theorem test_decode_version_ihl : decodesTo [
    (0x10000000#32, .verRaw),
    (0x11001203#32, .verParse 0x1203),
    (0x12000000#32, .verSer),
    (0x14000000#32, .ihlRaw),
    (0x15002314#32, .ihlParse 0x2314),
    (0x16000000#32, .ihlSer),
    (0x17000000#32, .ihlBytelen),
    (0x18000000#32, .ihlOptlen),
    (0x19000000#32, .ihlFromBytelen)] = true := by decide

theorem test_decode_tos : decodesTo [
    (0x20000000#32, .tosRaw),
    (0x21003425#32, .tosParse 0x3425),
    (0x22000000#32, .tosSer),
    (0x2300002E#32, .tosPack 6 true false true),
    (0x24000000#32, .tosUnpack),
    (0x28000000#32, .precRaw),
    (0x29004536#32, .precParse 0x4536),
    (0x2A000000#32, .precSer)] = true := by decide

theorem test_decode_tlen_ident : decodesTo [
    (0x30000000#32, .tlenRaw),
    (0x31005647#32, .tlenParse 0x5647),
    (0x32000000#32, .tlenSer),
    (0x34000000#32, .identRaw),
    (0x35006758#32, .identParse 0x6758),
    (0x36000000#32, .identSer)] = true := by decide

theorem test_decode_flags_foff : decodesTo [
    (0x38000000#32, .flagsRaw),
    (0x39007869#32, .flagsParse 0x7869),
    (0x3A000000#32, .flagsSer),
    (0x3B000002#32, .flagsPack false true),
    (0x3C000000#32, .flagsUnpack),
    (0x40000000#32, .foffRaw),
    (0x4100897A#32, .foffParse 0x897A),
    (0x42000000#32, .foffSer)] = true := by decide

theorem test_decode_ttl_proto_hcsum : decodesTo [
    (0x44000000#32, .ttlRaw),
    (0x45009A8B#32, .ttlParse 0x9A8B),
    (0x46000000#32, .ttlSer),
    (0x47000000#32, .ttlExpired),
    (0x48000000#32, .ttlDec),
    (0x4C000000#32, .protoRaw),
    (0x4D00AB9C#32, .protoParse 0xAB9C),
    (0x4E000000#32, .protoSer),
    (0x50000000#32, .hcsumRaw),
    (0x5100BCAD#32, .hcsumParse 0xBCAD),
    (0x52000000#32, .hcsumSer)] = true := by decide

theorem test_decode_address : decodesTo [
    (0x60000000#32, .addrRaw),
    (0x61000000#32, .addrOctets),
    (0x6200CDBE#32, .addrParseBin 0xCDBE),
    (0x63000000#32, .addrSerBin),
    (0x6400DECF#32, .addrParseText 0xDECF),
    (0x65000000#32, .addrFormatText),
    (0x66000000#32, .addrClass)] = true := by decide

theorem test_decode_checksum_control : decodesTo [
    (0x7000EFE0#32, .csumCompute 0xEFE0),
    (0x71000102#32, .csumVerify 0x0102),
    (0x80000000#32, .cmpRaw),
    (0xF0000000#32, .obufClear)] = true := by decide

theorem test_decode_table_word :
    decodeTableWord 32 0x2300001D = some (.tosPack 5 true true false) ∧
      decodeTableWord 32 0x3000FFFF = none := by decide

/-! ## Single steps -/

/-- Reset, then D0 and D1 written. -/
def operands (d0 d1 : Nat) : State :=
  { State.reset with d0 := BitVec.ofNat 32 d0, d1 := BitVec.ofNat 32 d1 }

/-- Reset, then IBUF and ILEN loaded. -/
def bytes (L : List Byte) : State :=
  { State.reset with ibuf := Memory.storeList [] 0 L, ilen := BitVec.ofNat 32 L.length }

/-- The command word `w` written to CMD leaves CODE, DOUT, EVAL, EPOS and the output so. -/
def runsTo (w : Nat) (s : State) (code dout eval epos : Nat) (out : List Byte) : Bool :=
  match step (s.withFetchWord 32 w) with
  | .next t =>
    t.status.toNat == code && t.dout.toNat == dout && t.eval.toNat == eval && t.epos.toNat == epos &&
      (t.obuf.take t.olen.toNat).map Prod.snd == out && t.olen.toNat == out.length
  | _ => false

/-- `95_test_vectors.md`, rows 16 and 17. -/
theorem test_VER_RAW :
    runsTo 0x10000000 (operands 15 0)
      0 0xF 0x0 0 [] = true ∧
    runsTo 0x10000000 (operands 16 0)
      5 0x0 0x10 0 [] = true := by decide

/-- `95_test_vectors.md`, rows 21 and 23. -/
theorem test_VER_PARSE :
    runsTo 0x11000000 (bytes [0xF0#8])
      0 0xF 0x0 0 [] = true ∧
    runsTo 0x11000001 (bytes [0x45#8])
      1 0x0 0x0 0 [] = true := by decide

/-- `95_test_vectors.md`, rows 25 and 26. -/
theorem test_VER_SER :
    runsTo 0x12000000 (operands 15 0)
      0 0x1 0x0 0 [0xF0#8] = true ∧
    runsTo 0x12000000 (operands 16 0)
      5 0x0 0x10 0 [] = true := by decide

/-- `95_test_vectors.md`, rows 30 and 28. -/
theorem test_IHL_RAW :
    runsTo 0x14000000 (operands 15 0)
      0 0xF 0x0 0 [] = true ∧
    runsTo 0x14000000 (operands 4 0)
      3 0x0 0x4 0 [] = true := by decide

/-- `95_test_vectors.md`, rows 36 and 35. -/
theorem test_IHL_PARSE :
    runsTo 0x15000000 (bytes [0x4F#8])
      0 0xF 0x0 0 [] = true ∧
    runsTo 0x15000000 (bytes [0x44#8])
      3 0x0 0x4 0 [] = true := by decide

/-- `95_test_vectors.md`, rows 41 and 40. -/
theorem test_IHL_SER :
    runsTo 0x16000000 (operands 15 0)
      0 0x1 0x0 0 [0x0F#8] = true ∧
    runsTo 0x16000000 (operands 4 0)
      3 0x0 0x4 0 [] = true := by decide

/-- `95_test_vectors.md`, rows 43 and 44. -/
theorem test_IHL_BYTELEN :
    runsTo 0x17000000 (operands 15 0)
      0 0x3C 0x0 0 [] = true ∧
    runsTo 0x17000000 (operands 4 0)
      3 0x0 0x4 0 [] = true := by decide

/-- `95_test_vectors.md`, rows 46 and 48. -/
theorem test_IHL_OPTLEN :
    runsTo 0x18000000 (operands 6 0)
      0 0x4 0x0 0 [] = true ∧
    runsTo 0x18000000 (operands 16 0)
      5 0x0 0x10 0 [] = true := by decide

/-- `95_test_vectors.md`, rows 51 and 53. -/
theorem test_IHL_FROM_BYTELEN :
    runsTo 0x19000000 (operands 60 0)
      0 0xF 0x0 0 [] = true ∧
    runsTo 0x19000000 (operands 21 0)
      10 0x0 0x15 0 [] = true := by decide

/-- `95_test_vectors.md`, rows 130 and 132. -/
theorem test_TOS_RAW :
    runsTo 0x20000000 (operands 0xFC 0)
      0 0xFC 0x0 0 [] = true ∧
    runsTo 0x20000000 (operands 0x02 0)
      4 0x0 0x2 0 [] = true := by decide

/-- `95_test_vectors.md`, rows 135 and 138. -/
theorem test_TOS_PARSE :
    runsTo 0x21000001 (bytes [0x45#8, 0x10#8])
      0 0x10 0x0 0 [] = true ∧
    runsTo 0x21000000 (bytes [0x03#8])
      4 0x0 0x3 0 [] = true := by decide

/-- `95_test_vectors.md`, rows 140 and 141. -/
theorem test_TOS_SER :
    runsTo 0x22000000 (operands 0xB8 0)
      0 0x1 0x0 0 [0xB8#8] = true ∧
    runsTo 0x22000000 (operands 0x02 0)
      4 0x0 0x2 0 [] = true := by decide

/-- `95_test_vectors.md`, rows 177 and 180. -/
theorem test_TOS_PACK :
    runsTo 0x2300001D (operands 0 0)
      0 0xB8 0x0 0 [] = true ∧
    runsTo 0x23000020 (operands 0 0)
      0 0x4 0x0 0 [] = true := by decide

/-- `95_test_vectors.md`, rows 181 and 183. -/
theorem test_TOS_UNPACK :
    runsTo 0x24000000 (operands 0xB8 0)
      0 0x1D 0x0 0 [] = true ∧
    runsTo 0x24000000 (operands 0x04 0)
      0 0x20 0x0 0 [] = true := by decide

/-- `95_test_vectors.md`, rows 58 and 59. -/
theorem test_PREC_RAW :
    runsTo 0x28000000 (operands 7 0)
      0 0x7 0x0 0 [] = true ∧
    runsTo 0x28000000 (operands 8 0)
      5 0x0 0x8 0 [] = true := by decide

/-- `95_test_vectors.md`, rows 62 and 64. -/
theorem test_PREC_PARSE :
    runsTo 0x29000000 (bytes [0xB8#8])
      0 0x5 0x0 0 [] = true ∧
    runsTo 0x29000000 (bytes [0x1F#8])
      0 0x0 0x0 0 [] = true := by decide

/-- `95_test_vectors.md`, rows 67 and 70. -/
theorem test_PREC_SER :
    runsTo 0x2A000000 (operands 5 0)
      0 0x1 0x0 0 [0xA0#8] = true ∧
    runsTo 0x2A000000 (operands 8 0)
      5 0x0 0x8 0 [] = true := by decide

/-- `95_test_vectors.md`, rows 74 and 71. -/
theorem test_TLEN_RAW :
    runsTo 0x30000000 (operands 65535 0)
      0 0xFFFF 0x0 0 [] = true ∧
    runsTo 0x30000000 (operands 19 0)
      3 0x0 0x13 0 [] = true := by decide

/-- `95_test_vectors.md`, rows 83 and 84. -/
theorem test_TLEN_PARSE :
    runsTo 0x31000002 (bytes [0x45#8, 0x00#8, 0x00#8, 0x73#8])
      0 0x73 0x0 0 [] = true ∧
    runsTo 0x31000003 (bytes [0x45#8, 0x00#8, 0x00#8, 0x73#8])
      2 0x0 0x1 0 [] = true := by decide

/-- `95_test_vectors.md`, rows 86 and 88. -/
theorem test_TLEN_SER :
    runsTo 0x32000000 (operands 115 0)
      0 0x2 0x0 0 [0x00#8, 0x73#8] = true ∧
    runsTo 0x32000000 (operands 19 0)
      3 0x0 0x13 0 [] = true := by decide

/-- `95_test_vectors.md`, rows 164 and 167. -/
theorem test_IDENT_RAW :
    runsTo 0x34000000 (operands 0x1C46 0)
      0 0x1C46 0x0 0 [] = true ∧
    runsTo 0x34000000 (operands 0x10000 0)
      11 0x0 0x10000 0 [] = true := by decide

/-- `95_test_vectors.md`, rows 170 and 169. -/
theorem test_IDENT_PARSE :
    runsTo 0x35000000 (bytes [0x1C#8, 0x46#8, 0x99#8])
      0 0x1C46 0x0 0 [] = true ∧
    runsTo 0x35000000 (bytes [0x1C#8])
      2 0x0 0x1 0 [] = true := by decide

/-- `95_test_vectors.md`, row 171. -/
theorem test_IDENT_SER :
    runsTo 0x36000000 (operands 0x00FF 0)
      0 0x2 0x0 0 [0x00#8, 0xFF#8] = true := by decide

/-- `95_test_vectors.md`, rows 93 and 97. -/
theorem test_FLAGS_RAW :
    runsTo 0x38000000 (operands 4 0)
      4 0x0 0x4 0 [] = true ∧
    runsTo 0x38000000 (operands 0x40 0)
      5 0x0 0x40 0 [] = true := by decide

/-- `95_test_vectors.md`, rows 102 and 105. -/
theorem test_FLAGS_PARSE :
    runsTo 0x39000000 (bytes [0x7F#8])
      0 0x3 0x0 0 [] = true ∧
    runsTo 0x39000000 (bytes [0xA0#8])
      4 0x0 0x5 0 [] = true := by decide

/-- `95_test_vectors.md`, rows 110 and 112. -/
theorem test_FLAGS_SER :
    runsTo 0x3A000000 (operands 1 0)
      0 0x1 0x0 0 [0x20#8] = true ∧
    runsTo 0x3A000000 (operands 4 0)
      4 0x0 0x4 0 [] = true := by decide

/-- `95_test_vectors.md`, rows 186 and 187. -/
theorem test_FLAGS_PACK :
    runsTo 0x3B000001 (operands 0 0)
      0 0x2 0x0 0 [] = true ∧
    runsTo 0x3B000002 (operands 0 0)
      0 0x1 0x0 0 [] = true := by decide

/-- `95_test_vectors.md`, rows 190 and 194. -/
theorem test_FLAGS_UNPACK :
    runsTo 0x3C000000 (operands 2 0)
      0 0x1 0x0 0 [] = true ∧
    runsTo 0x3C000000 (operands 4 0)
      4 0x0 0x4 0 [] = true := by decide

/-- `95_test_vectors.md`, rows 115 and 116. -/
theorem test_FOFF_RAW :
    runsTo 0x40000000 (operands 8191 0)
      0 0x1FFF 0x0 0 [] = true ∧
    runsTo 0x40000000 (operands 8192 0)
      5 0x0 0x2000 0 [] = true := by decide

/-- `95_test_vectors.md`, rows 122 and 123. -/
theorem test_FOFF_PARSE :
    runsTo 0x41000000 (bytes [0x20#8, 0xB9#8])
      0 0xB9 0x0 0 [] = true ∧
    runsTo 0x41000000 (bytes [0x40#8])
      2 0x0 0x1 0 [] = true := by decide

/-- `95_test_vectors.md`, rows 126 and 127. -/
theorem test_FOFF_SER :
    runsTo 0x42000000 (operands 8191 0)
      0 0x2 0x0 0 [0x1F#8, 0xFF#8] = true ∧
    runsTo 0x42000000 (operands 8192 0)
      5 0x0 0x2000 0 [] = true := by decide

/-- `95_test_vectors.md`, rows 144 and 145. -/
theorem test_TTL_RAW :
    runsTo 0x44000000 (operands 255 0)
      0 0xFF 0x0 0 [] = true ∧
    runsTo 0x44000000 (operands 256 0)
      11 0x0 0x100 0 [] = true := by decide

/-- `95_test_vectors.md`, rows 146 and 147. -/
theorem test_TTL_PARSE :
    runsTo 0x45000000 (bytes [0x40#8])
      0 0x40 0x0 0 [] = true ∧
    runsTo 0x45000000 (operands 0 0)
      1 0x0 0x0 0 [] = true := by decide

/-- `95_test_vectors.md`, row 148. -/
theorem test_TTL_SER :
    runsTo 0x46000000 (operands 128 0)
      0 0x1 0x0 0 [0x80#8] = true := by decide

/-- `95_test_vectors.md`, rows 150 and 151. -/
theorem test_TTL_EXPIRED :
    runsTo 0x47000000 (operands 0 0)
      0 0x1 0x0 0 [] = true ∧
    runsTo 0x47000000 (operands 1 0)
      0 0x0 0x0 0 [] = true := by decide

/-- `95_test_vectors.md`, rows 155 and 156. -/
theorem test_TTL_DEC :
    runsTo 0x48000000 (operands 255 0)
      0 0xFE 0x0 0 [] = true ∧
    runsTo 0x48000000 (operands 0 0)
      10 0x0 0x0 0 [] = true := by decide

/-- `95_test_vectors.md`, rows 160 and 161. -/
theorem test_PROTO_RAW :
    runsTo 0x4C000000 (operands 255 0)
      0 0xFF 0x0 0 [] = true ∧
    runsTo 0x4C000000 (operands 256 0)
      11 0x0 0x100 0 [] = true := by decide

/-- `95_test_vectors.md`, row 162. -/
theorem test_PROTO_PARSE :
    runsTo 0x4D000000 (bytes [0x11#8])
      0 0x11 0x0 0 [] = true := by decide

/-- `95_test_vectors.md`, row 163. -/
theorem test_PROTO_SER :
    runsTo 0x4E000000 (operands 6 0)
      0 0x1 0x0 0 [0x06#8] = true := by decide

/-- `95_test_vectors.md`, rows 172 and 173. -/
theorem test_HCSUM_RAW :
    runsTo 0x50000000 (operands 0xB861 0)
      0 0xB861 0x0 0 [] = true ∧
    runsTo 0x50000000 (operands 0x10000 0)
      11 0x0 0x10000 0 [] = true := by decide

/-- `95_test_vectors.md`, rows 174 and 175. -/
theorem test_HCSUM_PARSE :
    runsTo 0x51000000 (bytes [0xB8#8, 0x61#8])
      0 0xB861 0x0 0 [] = true ∧
    runsTo 0x51000000 (operands 0 0)
      1 0x0 0x0 0 [] = true := by decide

/-- `95_test_vectors.md`, row 176. -/
theorem test_HCSUM_SER :
    runsTo 0x52000000 (operands 0xB861 0)
      0 0x2 0x0 0 [0xB8#8, 0x61#8] = true := by decide

/-- `95_test_vectors.md`, row 223. -/
theorem test_ADDR_RAW :
    runsTo 0x60000000 (operands 0xC0A80101 0)
      0 0xC0A80101 0x0 0 [] = true := by decide

/-- `95_test_vectors.md`, rows 226 and 227. -/
theorem test_ADDR_OCTETS :
    runsTo 0x61000000 (operands 0x0101A8C0 0)
      0 0xC0A80101 0x0 0 [] = true ∧
    runsTo 0x61000000 (operands 0x04030201 0)
      0 0x1020304 0x0 0 [] = true := by decide

/-- `95_test_vectors.md`, rows 229 and 230. -/
theorem test_ADDR_PARSE_BIN :
    runsTo 0x62000000 (bytes [0xC0#8, 0xA8#8, 0x00#8, 0x01#8])
      0 0xC0A80001 0x0 0 [] = true ∧
    runsTo 0x62000000 (bytes [0xC0#8, 0xA8#8, 0x00#8])
      2 0x0 0x3 0 [] = true := by decide

/-- `95_test_vectors.md`, row 234. -/
theorem test_ADDR_SER_BIN :
    runsTo 0x63000000 (operands 0xC0A800C7 0)
      0 0x4 0x0 0 [0xC0#8, 0xA8#8, 0x00#8, 0xC7#8] = true := by decide

/-- `95_test_vectors.md`, rows 199 and 202. -/
theorem test_ADDR_PARSE_TEXT :
    runsTo 0x64000000 (bytes [0x31#8, 0x30#8, 0x2E#8, 0x30#8, 0x2E#8, 0x30#8, 0x2E#8, 0x31#8])
      0 0xA000001 0x0 0 [] = true ∧
    runsTo 0x64000000 (bytes [0x31#8, 0x39#8, 0x32#8, 0x2E#8, 0x31#8, 0x36#8, 0x38#8, 0x2E#8, 0x30#8, 0x31#8, 0x2E#8, 0x31#8])
      9 0x0 0x1 2 [] = true := by decide

/-- `95_test_vectors.md`, rows 213 and 207. -/
theorem test_ADDR_PARSE_TEXT_position :
    runsTo 0x64000000 (bytes [0x31#8, 0x2E#8, 0x32#8, 0x2E#8, 0x33#8, 0x2E#8, 0x34#8, 0x2E#8, 0x32#8, 0x35#8, 0x36#8])
      8 0x0 0x100 4 [] = true ∧
    runsTo 0x64000000 (bytes [0x31#8, 0x39#8, 0x32#8, 0x2E#8, 0x31#8, 0x36#8, 0x38#8, 0x2E#8, 0x31#8, 0x2E#8, 0x31#8, 0x20#8])
      7 0x0 0x20 3 [] = true := by decide

/-- `95_test_vectors.md`, rows 235 and 238. -/
theorem test_ADDR_FORMAT_TEXT :
    runsTo 0x65000000 (operands 0xC0A80101 0)
      0 0xB 0x0 0 [0x31#8, 0x39#8, 0x32#8, 0x2E#8, 0x31#8, 0x36#8, 0x38#8, 0x2E#8, 0x31#8, 0x2E#8, 0x31#8] = true ∧
    runsTo 0x65000000 (operands 0x0A000001 0)
      0 0x8 0x0 0 [0x31#8, 0x30#8, 0x2E#8, 0x30#8, 0x2E#8, 0x30#8, 0x2E#8, 0x31#8] = true := by decide

/-- `95_test_vectors.md`, rows 244 and 245. -/
theorem test_ADDR_CLASS :
    runsTo 0x66000000 (operands 0xDFFFFFFF 0)
      0 0x2 0x0 0 [] = true ∧
    runsTo 0x66000000 (operands 0xE0000001 0)
      0 0x103 0x0 0 [] = true := by decide

/-- `95_test_vectors.md`, rows 249 and 260. -/
theorem test_CSUM_COMPUTE :
    runsTo 0x70000000 (bytes ([0x45#8, 0x00#8, 0x00#8, 0x73#8, 0x00#8, 0x00#8, 0x40#8, 0x00#8, 0x40#8, 0x11#8] ++ [0x00#8, 0x00#8, 0xC0#8, 0xA8#8, 0x00#8, 0x01#8, 0xC0#8, 0xA8#8, 0x00#8, 0xC7#8]))
      0 0xB861 0x0 0 [] = true ∧
    runsTo 0x70000000 (bytes [0x01#8, 0x02#8, 0x03#8])
      0 0xFBFD 0x0 0 [] = true := by decide

/-- `95_test_vectors.md`, rows 250 and 254. -/
theorem test_CSUM_VERIFY :
    runsTo 0x71000000 (bytes ([0x45#8, 0x00#8, 0x00#8, 0x73#8, 0x00#8, 0x00#8, 0x40#8, 0x00#8, 0x40#8, 0x11#8] ++ [0xB8#8, 0x61#8, 0xC0#8, 0xA8#8, 0x00#8, 0x01#8, 0xC0#8, 0xA8#8, 0x00#8, 0xC7#8]))
      0 0x1 0x0 0 [] = true ∧
    runsTo 0x71000000 (bytes ([0x00#8, 0x00#8, 0x00#8, 0x00#8, 0x00#8, 0x00#8, 0x00#8, 0x00#8, 0x00#8, 0x00#8] ++ [0x00#8, 0x00#8, 0x00#8, 0x00#8, 0x00#8, 0x00#8, 0x00#8, 0x00#8, 0x00#8, 0x00#8]))
      0 0x0 0x0 0 [] = true := by decide

/-- `95_test_vectors.md`, rows 266 and 268. -/
theorem test_CMP_RAW :
    runsTo 0x80000000 (operands 0xC0A80001 0xC0A800C7)
      0 0x2 0x0 0 [] = true ∧
    runsTo 0x80000000 (operands 0x80000000 0x7FFFFFFF)
      0 0x4 0x0 0 [] = true := by decide

/-- As `operands`, with OLEN bytes 0x40 already in OBUF. -/
def filled (d0 n : Nat) : State :=
  { operands d0 0 with
    obuf := Memory.storeList [] 0 (List.replicate n 0x40#8), olen := BitVec.ofNat 32 n }

/-- `95_test_vectors.md`, rows 272 and 275: BUFFER_FULL at 63 bytes, the last two bytes at 62. -/
theorem test_append_all_or_nothing :
    runsTo 0x32000000 (filled 20 63) 12 0 2 0 (List.replicate 63 0x40#8) = true ∧
    runsTo 0x32000000 (filled 20 62) 0 2 0 0 (List.replicate 62 0x40#8 ++ [0x00#8, 0x14#8]) = true := by
  decide

/-- `95_test_vectors.md`, row 270: OLEN = 0 and the bytes stay. -/
theorem test_OBUF_CLEAR :
    runsTo 0xF0000000 (filled 64 11) 0 0 0 0 [] = true ∧
    (match exec .obufClear (filled 64 11) with
      | .next t => t.olen == 0#32 && t.obuf == (filled 64 11).obuf
      | _ => false) = true := by decide

/-- `95_test_vectors.md`, rows 3 and 7: a reserved opcode and a reserved IMM bit. -/
theorem test_illegal_words :
    runsTo 0x13000000 State.reset 13 0 0x13000000 0 [] = true ∧
    runsTo 0x23000040 State.reset 13 0 0x23000040 0 [] = true := by decide

/-- `10_state.md` R39: an ILEN write of 100 stores IBUF_SIZE = 64. -/
theorem test_ilen_clamps :
    (match step (State.reset.withProgram [.wr .ilen 100#32]) with
      | .next t => t.ilen == 64#32 && t.pending == []
      | _ => false) = true := by decide

/-- `30_encoding.md` R113: `ldhdr 45 10`. -/
theorem test_ldhdr :
    ldhdr [0x45#8, 0x10#8] = [.wrb 0 0x45#8, .wrb 1 0x10#8, .wr .ilen 2#32] := by decide

/-! ## Witnesses: the hypotheses of each obligation, met together -/

/-- Reset with these events pending. -/
def waiting (E : List Event) : State := { State.reset with pending := E }

/-- A host access at an offset from CODEC_BASE = 0. -/
def hostAccess (addr : Nat) (k : AccessKind) : Event :=
  .access { agent := .host, addr := addr, kind := k }

/-- `s` after one command. -/
def after (i : Instr) (s : State) : State :=
  match exec i s with
  | .next t => t
  | _ => s

theorem after_eq (i : Instr) (s : State) : exec i s = .next (after i s) := by cases i <;> rfl

theorem witness_DecodeOfEncodeIsIdentity :
    (Instr.verParse 65535).wellFormed = true ∧ (Instr.tosPack 7 true true true).wellFormed = true ∧
      (Instr.flagsPack false true).wellFormed = true ∧ Instr.cmpRaw.wellFormed = true := by decide

theorem witness_EncodeOfDecodeIsIdentity :
    decode 0x7100FFFF#32 = .ok (.csumVerify 65535) ∧ decode 0x2300003F#32 = .ok (.tosPack 7 true true true) := by
  decide

theorem witness_IllegalWordRaisesIllegalCommand :
    (waiting [commandEvent Config.default 0x23000040#32]).pending =
      commandEvent State.reset.config 0x23000040#32 :: [] ∧
    ¬ LegalWord 0x23000040#32 ∧ ¬ LegalWord 0x00000000#32 ∧ ¬ LegalWord 0xF1000000#32 := by
  unfold LegalWord; decide

theorem witness_StepRunsDecodedCommand :
    (waiting [commandEvent Config.default 0x1100FFFF#32, .reset]).pending =
      commandEvent State.reset.config 0x1100FFFF#32 :: [.reset] ∧
    decode 0x1100FFFF#32 = .ok (.verParse 65535) := by decide

theorem witness_StepRunsPlacedWord :
    decodeTableWord 32 0x2300003F = some (.tosPack 7 true true true) ∧
      decodeTableWord 32 0xF0000000 = some .obufClear := by decide

theorem witness_IdleStepChangesNothing : State.reset.pending = [] := rfl

theorem witness_HostOperationsDoWhatTheyName :
    (waiting [HostOp.event State.reset.config (.wr .d0 5#32)]).pending =
      HostOp.event State.reset.config (.wr .d0 5#32) :: [] ∧
    (64#32).toNat ≤ State.reset.config.ibufSize ∧ 63 < State.reset.config.ibufSize ∧
    63 < State.reset.config.obufSize ∧ (63 : Nat) < 4096 ∧
    (Instr.tosPack 7 true true true).wellFormed = true := by decide

/-- For each format an operand list that fits, at the edge of its ranges; beyond it, and for an unknown
mnemonic, none. -/
theorem witness_AssemblerRefusesUnfitOperands :
    (("CMP_RAW", 0x80) ∈ plainMnemonics ∧ PlainOperands [] 0) ∧
    (("VER_PARSE", 0x11) ∈ viewMnemonics ∧ ViewOperands [] 0 ∧ ViewOperands [65535] 65535) ∧
    TosOperands [7, 1, 1, 1] 63 ∧ FlagsOperands [1, 1] 3 ∧
    (¬ ∃ imm, PlainOperands [0] imm) ∧ (¬ ∃ imm, ViewOperands [65536] imm) ∧
    (¬ ∃ imm, TosOperands [8, 0, 0, 0] imm) ∧ (¬ ∃ imm, FlagsOperands [1, 2] imm) ∧
    ("NOP" ∉ plainMnemonics.map Prod.fst ∧ "NOP" ∉ viewMnemonics.map Prod.fst ∧ "NOP" ≠ "TOS_PACK" ∧
      "NOP" ≠ "FLAGS_PACK") := by
  refine ⟨⟨by decide, rfl, rfl⟩, ⟨by decide, .inl ⟨rfl, rfl⟩, .inr ⟨rfl, by decide⟩⟩,
    ⟨7, 1, 1, 1, rfl, by decide⟩, ⟨1, 1, rfl, by decide⟩, ?_, ?_, ?_, ?_, by decide⟩
  · rintro ⟨_, h, _⟩
    cases h
  · rintro ⟨_, ⟨h, _⟩ | ⟨h, hlt⟩⟩ <;> cases h
    omega
  · rintro ⟨_, _, _, _, _, h, hp, _⟩
    cases h
    omega
  · rintro ⟨_, _, _, h, _, hm, _⟩
    cases h
    omega

/-- `30_encoding.md` R111's own examples, an omitted OFF, and operands that do not fit. -/
theorem test_assemble :
    assemble "TLEN_PARSE" [2] = some (.tlenParse 2) ∧ assemble "TLEN_PARSE" [] = some (.tlenParse 0) ∧
      assemble "TOS_PACK" [5, 1, 0, 1] = some (.tosPack 5 true false true) ∧
      assemble "FLAGS_PACK" [1, 0] = some (.flagsPack true false) ∧
      assemble "VER_PARSE" [65536] = none ∧ assemble "VER_RAW" [0] = none := by decide

theorem witness_RegisterReadsReturnTheRegister :
    (waiting [hostAccess 0x020 .read32]).pending =
      .access ⟨.host, State.reset.config.base + 0x020, .read32⟩ :: [] ∧
    (0x020 < 0x1000 ∧ 0x020 % 4 = 0) ∧ (0xFFC < 0x1000 ∧ 0xFFC % 4 = 0) := by decide

theorem witness_HostWritesOfOperandRegisters :
    State.reset.config.ok = true ∧
    (waiting [hostAccess 0x008 (.write32 7#32)]).pending =
      .access ⟨.host, State.reset.config.base + 0x008, .write32 7#32⟩ :: [] ∧
    (waiting [hostAccess 0x00C (.write32 7#32)]).pending =
      .access ⟨.host, State.reset.config.base + 0x00C, .write32 7#32⟩ :: [] ∧
    (waiting [hostAccess 0x01C (.write32 65#32)]).pending =
      .access ⟨.host, State.reset.config.base + 0x01C, .write32 65#32⟩ :: [] := by decide

theorem witness_ReservedAndReadOnlyAccesses :
    State.reset.config.ok = true ∧
    (waiting [hostAccess 0xFFC (.write32 7#32)]).pending =
      .access ⟨.host, State.reset.config.base + 0xFFC, .write32 7#32⟩ :: [] ∧
    (waiting [hostAccess 0x024 .read32]).pending =
      .access ⟨.host, State.reset.config.base + 0x024, .read32⟩ :: [] ∧
    (waiting [hostAccess 0x1040 (.write8 7#8)]).pending =
      .access ⟨.host, State.reset.config.base + 0x1040, .write8 7#8⟩ :: [] ∧
    (waiting [hostAccess 0x2040 .read8]).pending =
      .access ⟨.host, State.reset.config.base + 0x2040, .read8⟩ :: [] ∧
    0x1000 + State.reset.config.ibufSize ≤ 0x1040 ∧ 0x2000 + State.reset.config.obufSize ≤ 0x2040 := by
  decide

theorem witness_BufferWindowAccesses :
    State.reset.config.ok = true ∧
    (waiting [hostAccess 0x103F (.write8 7#8)]).pending =
      .access ⟨.host, State.reset.config.base + 0x1000 + 63, .write8 7#8⟩ :: [] ∧
    (waiting [hostAccess 0x103F .read8]).pending =
      .access ⟨.host, State.reset.config.base + 0x1000 + 63, .read8⟩ :: [] ∧
    (waiting [hostAccess 0x203F .read8]).pending =
      .access ⟨.host, State.reset.config.base + 0x2000 + 63, .read8⟩ :: [] ∧
    63 < State.reset.config.ibufSize ∧ 63 < State.reset.config.obufSize := by decide

/-- One refused access and one admitted access, of the host. -/
theorem witness_OutsideAccessesAreRefused :
    (waiting [hostAccess 0x1000 .read32]).pending =
      .access ⟨.host, State.reset.config.base + 0x1000, .read32⟩ :: [] ∧
    step (waiting [hostAccess 0x1000 .read32]) = .refused .outsideInterface ∧
    step (waiting [hostAccess 0x2FFF (.write8 0#8)]) = .next (waiting []) := by
  refine ⟨rfl, rfl, rfl⟩

theorem witness_SecondAgentIsRefused :
    (waiting [.access ⟨.other, 0x000, .read32⟩]).pending = .access ⟨.other, 0x000, .read32⟩ :: [] ∧
      (Access.mk .other 0x000 .read32).agent = .other := by decide

theorem witness_PlatformResetLeavesResetValues :
    (waiting [.reset, .reset]).pending = .reset :: [.reset] := rfl

/-- The smallest and the largest sizes of `00_scope.md` R6 and R7. -/
theorem witness_ResetMeetsTheInvariant :
    (Config.mk 0 60 16).ok = true ∧ (Config.mk 0x40000000 4096 4096).ok = true := by decide

/-- An invariant state with bytes in both buffers. -/
def busy : State := { filled 20 2 with
  ibuf := Memory.storeList [] 0 [0x45#8, 0x00#8], ilen := 2#32, status := 7#32, eval := 0x20#32,
  epos := 2#32, pending := [commandEvent Config.default 0x32000000#32] }

theorem busy_inv : busy.Inv where
  sizes := by decide
  ilenBound := by decide
  olenBound := by decide
  ibufWf := by decide
  ibufBelow := by decide
  obufWf := by decide
  obufBelow := by decide
  outputWritten := by
    intro i hi
    have h : i < 2 := hi
    have hall : ∀ j < 2, Memory.find busy.obuf j ≠ none := by decide
    exact hall i h
  statusLegal := by decide
  successPayload := by decide
  raiseResult := by decide
  positionCodes := by decide
  positionBound := by decide

theorem witness_EveryStepKeepsTheInvariant :
    busy.Inv ∧ ∃ t, step busy = .next t :=
  ⟨busy_inv, _, rfl⟩

theorem witness_ConformingRunsNeverStop :
    (waiting [hostAccess 0x008 (.write32 5#32), .reset, hostAccess 0x2FFF .read8]).Conforming := by
  unfold State.Conforming; decide

theorem witness_CommandsWriteOnlyTheirOutputs :
    exec .verRaw (operands 15 0) = .next (after .verRaw (operands 15 0)) ∧
    exec .verSer (operands 15 0) = .next (after .verSer (operands 15 0)) ∧
    writesOutput .verRaw = false := ⟨rfl, rfl, rfl⟩

theorem witness_CommandsReportOnlyListedCodes :
    exec .verSer (operands 16 0) = .next (after .verSer (operands 16 0)) ∧
    (after .verSer (operands 16 0)).status = 5#32 := ⟨rfl, by decide⟩

theorem witness_ErrorsArePrecise :
    exec .verRaw (operands 256 0) = .next (after .verRaw (operands 256 0)) ∧
    (after .verRaw (operands 256 0)).status ≠ 0#32 := ⟨rfl, by decide⟩

theorem witness_OutcomeIgnoresEarlierResults :
    exec .addrClass busy = .next (after .addrClass busy) := rfl

theorem witness_OutcomeIgnoresBytesBeyondIlen :
    (∀ k, k < busy.ilen.toNat →
      State.ibufByte { busy with ibuf := Memory.storeList [] 0 [0x45#8, 0#8, 9#8], resets := 5 } k =
        busy.ibufByte k) ∧
    exec (.verParse 0) busy = .next (after (.verParse 0) busy) := by
  refine ⟨fun k hk => ?_, rfl⟩
  have h : k < 2 := hk
  match k, h with
  | 0, _ => rfl
  | 1, _ => rfl

theorem witness_ViewIsTheBytesBelowIlen : 1 < (busy.view 0).length := by decide

/-- A D0 value for each clause of a `_RAW` or `_SER` command of 8 bits: too wide, legal at the edge of the
range, illegal just outside it. -/
theorem witness_VersionCommands :
    2 ^ 8 ≤ (operands 256 0).d0.toNat ∧ (operands 15 0).d0.toNat ≤ 15 ∧
    ¬ (operands 16 0).d0.toNat ≤ 15 ∧ (operands 16 0).d0.toNat < 2 ^ 8 ∧
    (filled 15 63).config.ok = true ∧ (filled 15 63).olen.toNat + 1 ≤ (filled 15 63).config.obufSize ∧
    (filled 15 64).config.obufSize < (filled 15 64).olen.toNat + 1 ∧
    busy.ilen.toNat ≤ 2 ∧ 1 < busy.ilen.toNat := by decide

theorem witness_IhlCommands :
    2 ^ 8 ≤ (operands 256 0).d0.toNat ∧ 5 ≤ (operands 5 0).d0.toNat ∧ (operands 15 0).d0.toNat ≤ 15 ∧
    ¬ 5 ≤ (operands 4 0).d0.toNat ∧ ¬ (operands 16 0).d0.toNat ≤ 15 ∧
    (filled 15 63).olen.toNat + 1 ≤ (filled 15 63).config.obufSize ∧
    (filled 15 64).config.obufSize < (filled 15 64).olen.toNat + 1 ∧
    5 ≤ ((bytes [0xF5#8]).ibufByte 0).toNat % 16 ∧ ¬ 5 ≤ ((bytes [0xF4#8]).ibufByte 0).toNat % 16 ∧
    0 < (bytes [0xF5#8]).ilen.toNat ∧ (bytes [0xF5#8]).ilen.toNat ≤ 1 := by decide

theorem witness_IhlLengthCommands :
    256 ≤ (operands 256 0).d0.toNat ∧ (operands 4 0).d0.toNat < 5 ∧
    (16 ≤ (operands 255 0).d0.toNat ∧ (operands 255 0).d0.toNat < 256) ∧
    (5 ≤ (operands 5 0).d0.toNat ∧ (operands 15 0).d0.toNat ≤ 15) ∧
    ((operands 60 0).d0.toNat % 4 = 0 ∧ 20 ≤ (operands 60 0).d0.toNat ∧ (operands 60 0).d0.toNat ≤ 60) ∧
    ¬ ((operands 64 0).d0.toNat % 4 = 0 ∧ 20 ≤ (operands 64 0).d0.toNat ∧
      (operands 64 0).d0.toNat ≤ 60) := by decide

theorem witness_ByteLengthGivesBackTheIhl :
    exec .ihlBytelen (operands 15 0) = .next (after .ihlBytelen (operands 15 0)) ∧
    (after .ihlBytelen (operands 15 0)).status = 0#32 ∧
    (operands 60 0).d0 = (after .ihlBytelen (operands 15 0)).dout := ⟨rfl, by decide, by decide⟩

theorem witness_PrecedenceCommands :
    2 ^ 8 ≤ (operands 256 0).d0.toNat ∧ (operands 7 0).d0.toNat ≤ 7 ∧
    ¬ (operands 8 0).d0.toNat ≤ 7 ∧ (operands 8 0).d0.toNat < 2 ^ 8 ∧
    (filled 7 63).olen.toNat + 1 ≤ (filled 7 63).config.obufSize ∧
    (filled 7 64).config.obufSize < (filled 7 64).olen.toNat + 1 ∧
    busy.ilen.toNat ≤ 2 ∧ 1 < busy.ilen.toNat := by decide

theorem witness_TotalLengthCommands :
    2 ^ 16 ≤ (operands 65536 0).d0.toNat ∧ 20 ≤ (operands 20 0).d0.toNat ∧
    ¬ 20 ≤ (operands 19 0).d0.toNat ∧
    (filled 20 62).olen.toNat + (bigEndian16 20).length ≤ (filled 20 62).config.obufSize ∧
    (filled 20 63).config.obufSize < (filled 20 63).olen.toNat + (bigEndian16 20).length ∧
    busy.ilen.toNat ≤ 2 ∧ busy.ilen.toNat = 1 + 1 ∧ 0 + 2 ≤ busy.ilen.toNat ∧
    20 ≤ (busy.ibufByte 0).toNat * 256 + (busy.ibufByte 1).toNat ∧
    ¬ 20 ≤ ((bytes [0#8, 19#8]).ibufByte 0).toNat * 256 + ((bytes [0#8, 19#8]).ibufByte 1).toNat := by
  decide

theorem witness_FlagsCommands :
    2 ^ 8 ≤ (operands 256 0).d0.toNat ∧ (operands 3 0).d0.toNat ≤ 3 ∧
    ¬ (operands 4 0).d0.toNat ≤ 3 ∧ ¬ (operands 8 0).d0.toNat ≤ 3 ∧ 7 < (operands 8 0).d0.toNat ∧
    (filled 3 63).olen.toNat + 1 ≤ (filled 3 63).config.obufSize ∧
    (filled 3 64).config.obufSize < (filled 3 64).olen.toNat + 1 ∧
    ((bytes [0x7F#8]).ibufByte 0).toNat / 32 ≤ 3 ∧ ¬ ((bytes [0x80#8]).ibufByte 0).toNat / 32 ≤ 3 ∧
    0 < (bytes [0x7F#8]).ilen.toNat ∧ (bytes [0x7F#8]).ilen.toNat ≤ 1 := by decide

theorem witness_FragmentOffsetCommands :
    2 ^ 16 ≤ (operands 65536 0).d0.toNat ∧ (operands 8191 0).d0.toNat ≤ 8191 ∧
    ¬ (operands 8192 0).d0.toNat ≤ 8191 ∧ (operands 8192 0).d0.toNat < 2 ^ 16 ∧
    (filled 8191 62).olen.toNat + (bigEndian16 8191).length ≤ (filled 8191 62).config.obufSize ∧
    (filled 8191 63).config.obufSize < (filled 8191 63).olen.toNat + (bigEndian16 8191).length ∧
    busy.ilen.toNat ≤ 2 ∧ busy.ilen.toNat = 1 + 1 ∧ 0 + 2 ≤ busy.ilen.toNat := by decide

theorem witness_TypeOfServiceCommands :
    2 ^ 8 ≤ (operands 256 0).d0.toNat ∧ (operands 252 0).d0.toNat % 4 = 0 ∧
    ¬ (operands 255 0).d0.toNat % 4 = 0 ∧ (operands 255 0).d0.toNat < 2 ^ 8 ∧
    (filled 252 63).olen.toNat + 1 ≤ (filled 252 63).config.obufSize ∧
    (filled 252 64).config.obufSize < (filled 252 64).olen.toNat + 1 ∧
    (busy.ibufByte 1).toNat % 4 = 0 ∧ ¬ (busy.ibufByte 0).toNat % 4 = 0 ∧
    busy.ilen.toNat ≤ 2 ∧ 1 < busy.ilen.toNat := by decide

/-- TTL and Protocol: every value of the width is legal. -/
theorem witness_TtlFieldCommands :
    2 ^ 8 ≤ (operands 256 0).d0.toNat ∧ (operands 255 0).d0.toNat < 2 ^ 8 ∧
    (filled 255 63).olen.toNat + 1 ≤ (filled 255 63).config.obufSize ∧
    (filled 255 64).config.obufSize < (filled 255 64).olen.toNat + 1 ∧
    busy.ilen.toNat ≤ 2 ∧ 1 < busy.ilen.toNat := by decide

theorem witness_ProtocolCommands :
    2 ^ 8 ≤ (operands 256 0).d0.toNat ∧ (operands 255 0).d0.toNat < 2 ^ 8 ∧
    (filled 255 63).olen.toNat + 1 ≤ (filled 255 63).config.obufSize ∧
    (filled 255 64).config.obufSize < (filled 255 64).olen.toNat + 1 ∧
    busy.ilen.toNat ≤ 2 ∧ 1 < busy.ilen.toNat := by decide

theorem witness_TtlExpiryAndDecrement :
    256 ≤ (operands 256 0).d0.toNat ∧ (operands 0 0).d0.toNat = 0 ∧
    (1 ≤ (operands 1 0).d0.toNat ∧ (operands 255 0).d0.toNat < 256) := by decide

/-- `95_test_vectors.md` L1.4: five decrements of 5. -/
theorem witness_TtlDecrementChain :
    (operands 5 0).d0.toNat < 256 ∧ 1 ≤ 5 ∧ 5 ≤ (operands 5 0).d0.toNat := by decide

theorem witness_IdentificationCommands :
    2 ^ 16 ≤ (operands 65536 0).d0.toNat ∧ (operands 65535 0).d0.toNat < 2 ^ 16 ∧
    (filled 65535 62).olen.toNat + (bigEndian16 65535).length ≤ (filled 65535 62).config.obufSize ∧
    (filled 65535 63).config.obufSize < (filled 65535 63).olen.toNat + (bigEndian16 65535).length ∧
    busy.ilen.toNat ≤ 2 ∧ busy.ilen.toNat = 1 + 1 ∧ 0 + 2 ≤ busy.ilen.toNat := by decide

theorem witness_HeaderChecksumFieldCommands :
    2 ^ 16 ≤ (operands 65536 0).d0.toNat ∧ (operands 65535 0).d0.toNat < 2 ^ 16 ∧
    (filled 65535 62).olen.toNat + (bigEndian16 65535).length ≤ (filled 65535 62).config.obufSize ∧
    (filled 65535 63).config.obufSize < (filled 65535 63).olen.toNat + (bigEndian16 65535).length ∧
    busy.ilen.toNat ≤ 2 ∧ busy.ilen.toNat = 1 + 1 ∧ 0 + 2 ≤ busy.ilen.toNat := by decide

theorem witness_TypeOfServiceComposition :
    7 < 8 ∧ 256 ≤ (operands 256 0).d0.toNat ∧
    ((operands 255 0).d0.toNat < 256 ∧ (operands 255 0).d0.toNat % 4 ≠ 0) ∧
    ((operands 252 0).d0.toNat < 256 ∧ (operands 252 0).d0.toNat % 4 = 0) := by decide

theorem witness_FlagsComposition :
    256 ≤ (operands 256 0).d0.toNat ∧
    (8 ≤ (operands 255 0).d0.toNat ∧ (operands 255 0).d0.toNat < 256) ∧
    (4 ≤ (operands 7 0).d0.toNat ∧ (operands 7 0).d0.toNat < 8) ∧ (operands 3 0).d0.toNat < 4 := by
  decide

theorem witness_PackAndUnpackAreInverse :
    exec (.tosPack 7 true true true) State.reset = .next (after (.tosPack 7 true true true) State.reset) ∧
    (operands 0xFC 0).d0 = (after (.tosPack 7 true true true) State.reset).dout ∧
    exec (.flagsPack true true) State.reset = .next (after (.flagsPack true true) State.reset) ∧
    (operands 3 0).d0 = (after (.flagsPack true true) State.reset).dout ∧
    exec .tosUnpack (operands 0xFC 0) = .next (after .tosUnpack (operands 0xFC 0)) ∧
    (after .tosUnpack (operands 0xFC 0)).status = 0#32 ∧
    exec .flagsUnpack (operands 3 0) = .next (after .flagsUnpack (operands 3 0)) ∧
    (after .flagsUnpack (operands 3 0)).status = 0#32 := by
  refine ⟨rfl, by decide, rfl, by decide, rfl, by decide, rfl, by decide⟩

theorem witness_AddressConstruction :
    (operands 0x0101A8C0 0).d0.toNat = 1 * 2 ^ 24 + 1 * 2 ^ 16 + 168 * 2 ^ 8 + 192 ∧ 255 < 256 := by
  decide

theorem witness_AddressBinaryForms :
    (bytes [1#8, 2#8, 3#8, 4#8]).ilen.toNat ≤ 4 ∧ (bytes [1#8, 2#8, 3#8, 4#8]).ilen.toNat = 3 + 1 ∧
    (bytes [1#8, 2#8, 3#8, 4#8]).ilen.toNat = 1 + 3 ∧ 0 + 4 ≤ (bytes [1#8, 2#8, 3#8, 4#8]).ilen.toNat ∧
    (operands 0xFFFFFFFF 0).d0.toNat < 2 ^ 32 ∧
    (filled 1 60).olen.toNat + 4 ≤ (filled 1 60).config.obufSize ∧
    (filled 1 61).config.obufSize < (filled 1 61).olen.toNat + 4 := by decide

theorem witness_AddressTextFormat :
    (filled 0xFFFFFFFF 49).config.ok = true ∧
    (filled 0xFFFFFFFF 49).olen.toNat + (dottedText (filled 0xFFFFFFFF 49).d0.toNat).length ≤
      (filled 0xFFFFFFFF 49).config.obufSize ∧
    (filled 0xFFFFFFFF 50).config.obufSize <
      (filled 0xFFFFFFFF 50).olen.toNat + (dottedText (filled 0xFFFFFFFF 50).d0.toNat).length := by
  decide

/-- The text "0.0.0.0". -/
theorem witness_TextParseAcceptsExactlyAddressTexts :
    (bytes [0x30#8, 0x2E#8, 0x30#8, 0x2E#8, 0x30#8, 0x2E#8, 0x30#8]).view 0 =
      dottedText (0x00000000#32).toNat ∧
    exec (.addrParseText 0) (bytes [0x30#8, 0x2E#8, 0x30#8, 0x2E#8, 0x30#8, 0x2E#8, 0x30#8]) =
      .next (after (.addrParseText 0) (bytes [0x30#8, 0x2E#8, 0x30#8, 0x2E#8, 0x30#8, 0x2E#8, 0x30#8])) ∧
    (after (.addrParseText 0)
      (bytes [0x30#8, 0x2E#8, 0x30#8, 0x2E#8, 0x30#8, 0x2E#8, 0x30#8])).status = 0#32 := by
  refine ⟨by decide, rfl, by decide⟩

/-- The views of the six clauses: empty; "1.x"; "1."; "1.256"; "1.01"; "1.255". The octets closed before
are [1]. -/
theorem witness_TextParseErrors :
    State.reset.view 0 = [] ∧
    (¬ IsDigit 0x78#8 ∧ 0x78#8 ≠ 0x2E#8 ∧
      (bytes [0x31#8, 0x2E#8, 0x78#8]).view 0 = closedText [1] ++ [] ++ 0x78#8 :: []) ∧
    (Closes [] ∧ (bytes [0x31#8, 0x2E#8]).view 0 = closedText [1] ++ [] ∧
      (bytes [0x31#8, 0x2E#8]).view 0 ≠ []) ∧
    (255 < decimalValue [0x32#8, 0x35#8, 0x36#8] ∧
      (bytes [0x31#8, 0x2E#8, 0x32#8, 0x35#8, 0x36#8]).view 0 =
        closedText [1] ++ [0x32#8, 0x35#8, 0x36#8] ++ []) ∧
    ([0x30#8, 0x31#8].head? = some 0x30#8 ∧ decimalValue [0x30#8, 0x31#8] ≤ 255 ∧
      (bytes [0x31#8, 0x2E#8, 0x30#8, 0x31#8]).view 0 = closedText [1] ++ [0x30#8, 0x31#8] ++ []) ∧
    ([1].length ≠ 3 ∧
      (bytes [0x31#8, 0x2E#8, 0x32#8, 0x35#8, 0x35#8]).view 0 = closedText [1] ++ digitsText 255) := by
  unfold IsDigit
  refine ⟨rfl, by decide, ⟨.inl rfl, by decide, by decide⟩, by decide, by decide, by decide⟩

/-- The premises of `TextParseErrors` that its clauses share, at one of those states. -/
theorem witness_TextParseErrors_shared :
    (bytes [0x31#8, 0x2E#8, 0x78#8]).Inv ∧ (∀ n ∈ [1], n ≤ 255) ∧
      (∀ c ∈ [0x30#8, 0x31#8], IsDigit c) := by
  refine ⟨⟨by decide, by decide, by decide, by decide, by decide, by decide, by decide, ?_, by decide,
    by decide, by decide, by decide, by decide⟩, by decide, by unfold IsDigit; decide⟩
  intro i hi
  exact absurd hi (Nat.not_lt_zero i)

/-- The boundary addresses of `44_address.md` R406. -/
theorem witness_AddressClassification :
    (operands 0x7FFFFFFF 0).d0.toNat / 2 ^ 31 = 0b0 ∧ (operands 0x80000000 0).d0.toNat / 2 ^ 30 = 0b10 ∧
    (operands 0xC0000000 0).d0.toNat / 2 ^ 29 = 0b110 ∧
    (operands 0xE0000000 0).d0.toNat / 2 ^ 28 = 0b1110 ∧
    (operands 0xF0000000 0).d0.toNat / 2 ^ 28 = 0b1111 := by decide

theorem witness_FoldHasClosedForm : 0xFFFF < 0x10000 ∧ 1 ≤ 1 ∧ fold 0x2479C = 0x479E := by decide

theorem witness_ComputedChecksumVerifies :
    2 * 0 + 1 < ((bytes [0#8, 0#8, 9#8]).view 0).length ∧
    ((bytes [0#8, 0#8, 9#8]).view 0)[2 * 0]? = some 0#8 ∧
    ((bytes [0#8, 0#8, 9#8]).view 0)[2 * 0 + 1]? = some 0#8 ∧
    exec (.csumCompute 0) (bytes [0#8, 0#8, 9#8]) =
      .next (after (.csumCompute 0) (bytes [0#8, 0#8, 9#8])) ∧
    (bytes [0xF6#8, 0xFF#8, 9#8]).view 0 =
      (((bytes [0#8, 0#8, 9#8]).view 0).set 0
        (BitVec.ofNat 8 ((after (.csumCompute 0) (bytes [0#8, 0#8, 9#8])).dout.toNat / 256))).set 1
        (BitVec.ofNat 8 ((after (.csumCompute 0) (bytes [0#8, 0#8, 9#8])).dout.toNat % 256)) := by
  refine ⟨by decide, by decide, by decide, rfl, by decide⟩

theorem witness_CompareAndClear :
    (operands 5 5).d0 = (operands 5 5).d1 ∧
    (operands 0 0xFFFFFFFF).d0.toNat < (operands 0 0xFFFFFFFF).d1.toNat ∧
    (operands 0x80000000 0x7FFFFFFF).d1.toNat < (operands 0x80000000 0x7FFFFFFF).d0.toNat := by decide

theorem witness_ParseInvertsSerialize :
    (Instr.tlenSer, Instr.tlenParse) ∈ inversePairs ∧ (operands 115 0).config.ok = true ∧
    exec .tlenSer (operands 115 0) = .next (after .tlenSer (operands 115 0)) ∧
    (after .tlenSer (operands 115 0)).status = 0#32 ∧
    (bytes [0x00#8, 0x73#8]).view 0 = appended (operands 115 0) (after .tlenSer (operands 115 0)) := by
  refine ⟨by simp [inversePairs], by decide, rfl, by decide, by decide⟩

end Sys2Proof.Tests
end

section
/-! SUPPORT. Which reports a command can raise: never OK, and a position only from the text parse,
inside its view (`60_exceptions.md` R501, `70_reset_and_hazards.md` R605). -/

namespace Sys2Proof.Machine

open Sys2Proof.Laws

/-- A report a command with a view of `n` bytes can raise: not OK, a position of at most `n`, and a
position other than 0 only with the codes 6 to 9 of ADDR_PARSE_TEXT (`44_address.md` R414). -/
structure Raise.Legal (n : Nat) (r : Raise) : Prop where
  notOk        : r.code ≠ .ok
  posLe        : r.pos ≤ n
  positionCode : r.pos ≠ 0 → 6 ≤ r.code.number.toNat ∧ r.code.number.toNat ≤ 9

theorem Raise.legal_of_pos_zero {r : Raise} (hcode : r.code ≠ .ok) (hpos : r.pos = 0) (n : Nat) :
    r.Legal n :=
  ⟨hcode, by omega, fun h => absurd hpos h⟩

theorem Raise.Legal.mono {m n : Nat} {r : Raise} (h : r.Legal m) (hmn : m ≤ n) : r.Legal n :=
  ⟨h.notOk, h.posLe.trans hmn, h.positionCode⟩

/-- Every report `x` can raise is legal for a view of `n` bytes. -/
def RaisesWithin {α : Type} (n : Nat) (x : Except Raise α) : Prop :=
  ∀ r, x = .error r → r.Legal n

section Except

variable {α β : Type} {m n : Nat} {x : Except Raise α}

@[simp] theorem raisesWithin_ok (a : α) : RaisesWithin n (.ok a) := fun _ h => nomatch h

@[simp] theorem raisesWithin_error (r : Raise) :
    RaisesWithin n (.error r : Except Raise α) ↔ r.Legal n :=
  ⟨fun h => h r rfl, fun h _ hr => Except.error.inj hr ▸ h⟩

theorem raisesWithin_of_pos_zero {c : Code} (hc : c ≠ .ok) (v : Nat) :
    RaisesWithin n (.error ⟨c, v, 0⟩ : Except Raise α) :=
  (raisesWithin_error _).2 (Raise.legal_of_pos_zero hc rfl n)

theorem raisesWithin_of_text_code {c : Code} (hc : 6 ≤ c.number.toNat ∧ c.number.toNat ≤ 9)
    (v k : Nat) : RaisesWithin k (.error ⟨c, v, k⟩ : Except Raise α) :=
  (raisesWithin_error _).2 ⟨by rintro rfl; exact absurd hc (by decide), le_rfl, fun _ => hc⟩

theorem RaisesWithin.mono (h : RaisesWithin m x) (hmn : m ≤ n) : RaisesWithin n x :=
  fun r hr => (h r hr).mono hmn

theorem RaisesWithin.bind {f : α → Except Raise β} (hx : RaisesWithin n x)
    (hf : ∀ a, x = .ok a → RaisesWithin n (f a)) : RaisesWithin n (x.bind f) := by
  cases x with
  | error r => exact (raisesWithin_error r).2 (hx r rfl)
  | ok a => exact hf a rfl

theorem RaisesWithin.map (f : α → β) (hx : RaisesWithin n x) : RaisesWithin n (x.map f) := by
  cases x with
  | error r => exact (raisesWithin_error r).2 (hx r rfl)
  | ok a => exact raisesWithin_ok _

end Except

/-! ### The checks and parses that report no position -/

theorem Field.check_raises (f : Field) (v n : Nat) : RaisesWithin n (f.check v) := by
  intro r hr
  obtain ⟨hcode, -, hpos⟩ := Field.check_error hr
  exact Raise.legal_of_pos_zero (by rcases hcode with h | h | h <;> simp [h]) hpos n

theorem State.operand_raises (s : State) (f : Field) (n : Nat) : RaisesWithin n (s.operand f) := by
  rcases s.operand_cases f with ⟨-, h⟩ | ⟨-, h⟩ <;> rw [h]
  · exact raisesWithin_of_pos_zero (by decide) _
  · exact raisesWithin_ok _

theorem State.validated_eq_bind (s : State) (f : Field) :
    s.validated f = (s.operand f).bind f.check := by
  unfold State.validated
  cases s.operand f <;> rfl

theorem State.validated_raises (s : State) (f : Field) (n : Nat) :
    RaisesWithin n (s.validated f) := by
  rw [State.validated_eq_bind]
  exact (s.operand_raises f n).bind fun v _ => f.check_raises v n

theorem parseByte_raises (f : Field) (V : List Byte) (n : Nat) : RaisesWithin n (parseByte f V) := by
  match V with
  | [] => exact raisesWithin_of_pos_zero (by decide) _
  | _ :: _ => exact f.check_raises _ n

theorem parsePair_raises (f : Field) (V : List Byte) (n : Nat) : RaisesWithin n (parsePair f V) := by
  match V with
  | [] => exact raisesWithin_of_pos_zero (by decide) _
  | [_] => exact raisesWithin_of_pos_zero (by decide) _
  | _ :: _ :: _ => exact f.check_raises _ n

theorem parseQuad_raises (V : List Byte) (n : Nat) : RaisesWithin n (parseQuad V) := by
  match V with
  | [] => exact raisesWithin_of_pos_zero (by decide) _
  | [_] | [_, _] | [_, _, _] => exact raisesWithin_of_pos_zero (by decide) _
  | _ :: _ :: _ :: _ :: _ => exact raisesWithin_ok _

theorem ihlOfByteLength_raises (v n : Nat) : RaisesWithin n (ihlOfByteLength v) := by
  unfold ihlOfByteLength
  split
  · exact raisesWithin_of_pos_zero (by decide) _
  · exact raisesWithin_ok _

theorem ttlDecrement_raises (v n : Nat) : RaisesWithin n (ttlDecrement v) := by
  unfold ttlDecrement
  split
  · exact raisesWithin_of_pos_zero (by decide) _
  · exact raisesWithin_ok _

/-! ### The text scan: a position is at most the number of bytes scanned -/

theorem Scan.close_raises (st : Scan) : RaisesWithin st.k st.close := by
  unfold Scan.close
  split_ifs
  · exact raisesWithin_of_text_code (by decide) _ _
  · exact raisesWithin_of_text_code (by decide) _ _
  · exact raisesWithin_of_text_code (by decide) _ _
  · exact raisesWithin_ok _

theorem Scan.close_ok_k {st st' : Scan} (h : st.close = .ok st') : st'.k = st.k := by
  unfold Scan.close at h
  split_ifs at h
  cases h
  rfl

theorem Scan.byte_raises (st : Scan) (c : Byte) : RaisesWithin st.k (st.byte c) := by
  unfold Scan.byte
  split
  · exact raisesWithin_ok _
  · split
    · exact st.close_raises.map _
    · exact raisesWithin_of_text_code (by decide) _ _

/-- One byte moves the octet position by at most one. -/
theorem Scan.byte_ok_k_le {st st' : Scan} {c : Byte} (h : st.byte c = .ok st') :
    st'.k ≤ st.k + 1 := by
  unfold Scan.byte at h
  split at h
  · cases h
    exact Nat.le_succ _
  · split at h
    · cases hclose : st.close with
      | error r => rw [hclose] at h; cases h
      | ok closed =>
        rw [hclose] at h
        cases h
        exact (congrArg (· + 1) (Scan.close_ok_k hclose)).le
    · cases h

theorem Scan.run_cons (st : Scan) (c : Byte) (cs : List Byte) :
    Scan.run st (c :: cs) = (st.byte c).bind (fun st' => Scan.run st' cs) := by
  rw [Scan.run]
  cases st.byte c <;> rfl

theorem Scan.run_raises (st : Scan) (cs : List Byte) :
    RaisesWithin (st.k + cs.length) (Scan.run st cs) := by
  induction cs generalizing st with
  | nil => exact st.close_raises
  | cons c cs ih =>
    rw [Scan.run_cons, List.length_cons]
    refine (st.byte_raises c).mono (by omega) |>.bind fun st' hst' => (ih st').mono ?_
    have := Scan.byte_ok_k_le hst'
    omega

theorem addressOfOctets_raises (octets : List Nat) (n : Nat) :
    RaisesWithin n (addressOfOctets octets) := by
  unfold addressOfOctets
  split
  · exact raisesWithin_ok _
  · exact raisesWithin_of_pos_zero (by decide) _

theorem parseText_raises (V : List Byte) : RaisesWithin V.length (parseText V) := by
  match V with
  | [] => exact raisesWithin_of_pos_zero (by decide) _
  | c :: cs =>
    have hrun : RaisesWithin (c :: cs).length (Scan.run Scan.start (c :: cs)) :=
      (Scan.run_raises _ _).mono (Nat.zero_add _).le
    exact hrun.bind fun st _ => addressOfOctets_raises st.oct _

/-! ### The commands -/

/-- What a command that appends nothing can raise; only the text parse uses the bound. -/
theorem conclusion_raises (i : Instr) (s : State) (V : List Byte) :
    RaisesWithin V.length (conclusion i s V) := by
  cases i with
  | verParse _ | ihlParse _ | precParse _ | flagsParse _ | tosParse _ | ttlParse _ | protoParse _ =>
    exact parseByte_raises _ V _
  | tlenParse _ | foffParse _ | identParse _ | hcsumParse _ => exact parsePair_raises _ V _
  | addrParseBin _ => exact parseQuad_raises V _
  | addrParseText _ => exact parseText_raises V
  | ihlBytelen | ihlOptlen | tosUnpack | flagsUnpack => exact (s.validated_raises _ _).map _
  | ihlFromBytelen => exact ihlOfByteLength_raises _ _
  | ttlExpired | addrClass => exact (s.operand_raises _ _).map _
  | ttlDec => exact (s.operand_raises _ _).bind fun v _ => ttlDecrement_raises v _
  | tosPack _ _ _ _ | flagsPack _ _ | addrOctets | csumCompute _ | csumVerify _ | cmpRaw =>
    exact raisesWithin_ok _
  | _ => exact s.validated_raises _ _

/-- What a command that appends can raise before it appends. -/
theorem output_raises (i : Instr) (s : State) (n : Nat) : RaisesWithin n (output i s) := by
  cases i with
  | addrFormatText => exact (s.operand_raises _ _).map _
  | _ => exact (s.validated_raises _ _).map _

end Sys2Proof.Machine
end

section
/-! SUPPORT. What a command and what a step can do: one case per shape of command, one constructor per
effect of an event. -/

namespace Sys2Proof.Machine

open Sys2Proof.Laws

/-- Everything a command can do: conclude with a value or a raise, append or raise, or clear the
output. -/
theorem exec_cases (i : Instr) (s : State) :
    (appends i = false ∧ i ≠ .obufClear ∧
      exec i s = .next (s.conclude (conclusion i s (s.view (viewOffset i))))) ∨
    (appends i = true ∧ exec i s = .next (s.emit (output i s))) ∨
    (i = .obufClear ∧ exec i s = .next (s.clearOutput.succeed 0)) := by
  by_cases hclear : i = .obufClear
  · subst hclear
    exact .inr (.inr ⟨rfl, rfl⟩)
  · cases happ : appends i with
    | false => exact .inl ⟨rfl, hclear, exec_concludes happ hclear s⟩
    | true => exact .inr (.inl ⟨rfl, exec_emits happ s⟩)

/-- The states that one event can lead to from `s`, the event already taken from the pending ones. -/
inductive State.EventEffect (s : State) : State → Prop
  | ignored : EventEffect s s
  | answered (v : ReadValue) : EventEffect s (s.answer v)
  | wroteD0 (v : Word) : EventEffect s { s with d0 := v }
  | wroteD1 (v : Word) : EventEffect s { s with d1 := v }
  | wroteIlen (v : Word) : EventEffect s (s.writeIlen v)
  | wroteIbuf (i : Nat) (b : Byte) : EventEffect s (s.ibufWrite i b)
  | ranCommand (i : Instr) (w : Word) (t : State) (h : exec i { s with cmd := w } = .next t) :
      EventEffect s t
  | refusedWord (w : Word) :
      EventEffect s (State.raise { s with cmd := w } ⟨.illegalCommand, w.toNat, 0⟩)
  | wasReset : EventEffect s s.platformReset

theorem State.commandWrite_effect {s t : State} {w : Word} (h : s.commandWrite w = .next t) :
    s.EventEffect t := by
  unfold State.commandWrite at h
  split at h
  · exact .ranCommand _ w t h
  · cases h
    exact .refusedWord w

theorem State.registerWrite_effect {s t : State} {off : Nat} {v : Word}
    (h : s.registerWrite off v = .next t) : s.EventEffect t := by
  unfold State.registerWrite at h
  split_ifs at h
  · exact State.commandWrite_effect h
  · cases h
    exact .wroteD0 v
  · cases h
    exact .wroteD1 v
  · cases h
    exact .wroteIlen v
  · cases h
    exact .ignored

theorem State.registerAccess_effect {s t : State} {off : Nat} {k : AccessKind}
    (h : s.registerAccess off k = .next t) : s.EventEffect t := by
  cases k with
  | read32 =>
    simp only [State.registerAccess] at h
    split_ifs at h
    cases h
    exact .answered _
  | write32 v =>
    simp only [State.registerAccess] at h
    split_ifs at h
    exact State.registerWrite_effect h
  | read8 | write8 _ | otherWidth => cases h

theorem State.ibufAccess_effect {s t : State} {i : Nat} {k : AccessKind}
    (h : s.ibufAccess i k = .next t) : s.EventEffect t := by
  cases k with
  | read8 =>
    cases h
    exact .answered _
  | write8 b =>
    cases h
    exact .wroteIbuf i b
  | read32 | write32 _ | otherWidth => cases h

theorem State.obufAccess_effect {s t : State} {i : Nat} {k : AccessKind}
    (h : s.obufAccess i k = .next t) : s.EventEffect t := by
  cases k with
  | read8 =>
    cases h
    exact .answered _
  | write8 _ =>
    cases h
    exact .ignored
  | read32 | write32 _ | otherWidth => cases h

theorem State.perform_effect {s t : State} {a : Access} (h : s.perform a = .next t) :
    s.EventEffect t := by
  unfold State.perform at h
  split at h
  · cases h
  · split at h
    · cases h
    · split_ifs at h
      · exact State.registerAccess_effect h
      · exact State.ibufAccess_effect h
      · exact State.obufAccess_effect h

theorem State.handle_effect {s t : State} {e : Event} (h : s.handle e = .next t) :
    s.EventEffect t := by
  cases e with
  | access a => exact State.perform_effect h
  | reset =>
    cases h
    exact .wasReset

/-- A step takes one event, or none, and has one of the effects. -/
theorem step_effect {s t : State} (h : step s = .next t) :
    ∃ rest, State.EventEffect { s with pending := rest } t := by
  unfold step at h
  split at h
  · cases h
    exact ⟨s.pending, .ignored⟩
  · exact ⟨_, State.handle_effect h⟩

end Sys2Proof.Machine
end

section
/-! SUPPORT. Every effect of an event keeps the invariant. -/

namespace Sys2Proof.Machine

open Sys2Proof.Laws

/-- The legal sizes (`00_scope.md` R6, R7). -/
theorem Config.ok_iff (c : Config) : c.ok = true ↔
    60 ≤ c.ibufSize ∧ c.ibufSize ≤ 4096 ∧ 16 ≤ c.obufSize ∧ c.obufSize ≤ 4096 := by
  simp [Config.ok, and_assoc]

theorem statusWord_toNat (c : Code) : (statusWord c).toNat = c.number.toNat := by
  cases c <;> rfl

theorem statusWord_toNat_le (c : Code) : (statusWord c).toNat ≤ 13 := by
  cases c <;> decide

theorem statusWord_eq_zero_iff (c : Code) : statusWord c = 0#32 ↔ c = .ok := by
  cases c <;> decide

/-- EPOS holds at most the position itself, and is 0 at position 0. -/
theorem State.raise_epos_toNat_le (s : State) (r : Raise) : (s.raise r).epos.toNat ≤ r.pos := by
  rw [State.raise_epos, BitVec.toNat_setWidth, BitVec.toNat_ofNat]
  exact (Nat.mod_le _ _).trans (Nat.mod_le _ _)

/-- ILEN after a host write (`10_state.md` R39): the smaller of both fits in 32 bits. -/
theorem State.writeIlen_ilen_toNat (s : State) (v : Word) :
    (s.writeIlen v).ilen.toNat = min v.toNat s.config.ibufSize := by
  have := v.isLt
  simp only [State.writeIlen_ilen, BitVec.toNat_ofNat]
  exact Nat.mod_eq_of_lt (by omega)

namespace State.Inv

variable {s : State}

theorem view_length_le (h : s.Inv) (off : Nat) : (s.view off).length ≤ s.config.ibufSize := by
  have := h.ilenBound
  rw [State.view_length]
  omega

/-- The fields a success does not write keep their part of the invariant. -/
theorem succeed (h : s.Inv) (v : Nat) : (s.succeed v).Inv :=
  { h with
    statusLegal := .inl (Nat.zero_le _)
    successPayload := fun _ => ⟨rfl, rfl⟩
    raiseResult := fun hstatus => absurd rfl hstatus
    positionCodes := fun hepos => absurd rfl hepos
    positionBound := Nat.zero_le _ }

theorem raise {r : Raise} (h : s.Inv) (hr : r.Legal s.config.ibufSize) : (s.raise r).Inv :=
  { h with
    statusLegal := .inl (statusWord_toNat_le r.code)
    successPayload := fun hstatus => absurd ((statusWord_eq_zero_iff _).1 hstatus) hr.notOk
    raiseResult := fun _ => rfl
    positionCodes := fun hepos => by
      have hne : r.pos ≠ 0 := fun h0 => hepos (by simp [h0])
      rw [State.raise_status, statusWord_toNat]
      exact hr.positionCode hne
    positionBound := (s.raise_epos_toNat_le r).trans hr.posLe }

theorem conclude {x : Except Raise Nat} (h : s.Inv) (hx : RaisesWithin s.config.ibufSize x) :
    (s.conclude x).Inv := by
  cases x with
  | ok v => exact h.succeed v
  | error r => exact h.raise (hx r rfl)

/-- The part of an append before its success (`20_memory.md` R79). -/
theorem storeOutput {L : List Byte} (h : s.Inv)
    (hroom : s.olen.toNat + L.length ≤ s.config.obufSize) :
    State.Inv { s with
      obuf := Memory.storeList s.obuf s.olen.toNat L
      olen := BitVec.ofNat 32 (s.olen.toNat + L.length) } :=
  have holen : (BitVec.ofNat 32 (s.olen.toNat + L.length)).toNat = s.olen.toNat + L.length := by
    obtain ⟨-, -, -, hmax⟩ := (Config.ok_iff _).1 h.sizes
    exact BitVec.toNat_ofNat .. ▸ Nat.mod_eq_of_lt (by omega)
  { h with
    olenBound := holen.trans_le hroom
    obufWf := Memory.storeList_wf L _ h.obufWf
    obufBelow := Memory.storeList_below L h.obufBelow hroom
    outputWritten := fun i hi => by
      replace hi : i < s.olen.toNat + L.length := hi.trans_eq holen
      rw [Memory.find_storeList]
      split_ifs with hnew
      · rw [ne_eq, List.getElem?_eq_none_iff]
        omega
      · exact h.outputWritten i (by omega) }

theorem emit {x : Except Raise (List Byte)} (h : s.Inv) (hx : RaisesWithin s.config.ibufSize x) :
    (s.emit x).Inv := by
  rcases emit_cases s x with ⟨r, hemit, hr⟩ | ⟨L, -, hroom, hemit⟩ <;> rw [hemit]
  · refine h.raise ?_
    rcases hr with hr | ⟨L, -, rfl⟩
    · exact hx r hr
    · exact Raise.legal_of_pos_zero (by simp) rfl _
  · exact (h.storeOutput hroom).succeed L.length

theorem clearOutput (h : s.Inv) : s.clearOutput.Inv :=
  { h with
    olenBound := Nat.zero_le _
    outputWritten := fun i hi => absurd hi (Nat.not_lt_zero i) }

theorem exec {i : Instr} {t : State} (h : s.Inv) (hexec : Machine.exec i s = .next t) : t.Inv := by
  rcases exec_cases i s with ⟨-, -, he⟩ | ⟨-, he⟩ | ⟨-, he⟩ <;> cases he.symm.trans hexec
  · exact h.conclude ((conclusion_raises i s _).mono (h.view_length_le _))
  · exact h.emit (output_raises i s _)
  · exact h.clearOutput.succeed 0

theorem writeIlen (h : s.Inv) (v : Word) : (s.writeIlen v).Inv :=
  { h with ilenBound := (s.writeIlen_ilen_toNat v).trans_le (min_le_right _ _) }

theorem ibufWrite (h : s.Inv) (i : Nat) (b : Byte) : (s.ibufWrite i b).Inv := by
  unfold State.ibufWrite
  split
  case isTrue hi =>
    exact { h with
      ibufWf := Memory.store_wf i b h.ibufWf
      ibufBelow := Memory.store_below b h.ibufBelow hi }
  case isFalse => exact h

/-- Only the sizes are left of the state before: a reset empties everything else. -/
theorem platformReset (h : s.Inv) : s.platformReset.Inv where
  sizes := h.sizes
  ilenBound := Nat.zero_le _
  olenBound := Nat.zero_le _
  ibufWf := .nil
  ibufBelow := by simp
  obufWf := .nil
  obufBelow := by simp
  outputWritten i hi := absurd hi (Nat.not_lt_zero i)
  statusLegal := .inr rfl
  successPayload := by simp
  raiseResult _ := rfl
  positionCodes hepos := absurd rfl hepos
  positionBound := Nat.zero_le _

theorem eventEffect {t : State} (h : s.Inv) (ht : s.EventEffect t) : t.Inv := by
  cases ht with
  | ignored => exact h
  | answered v => exact { h with }
  | wroteD0 v => exact { h with }
  | wroteD1 v => exact { h with }
  | wroteIlen v => exact h.writeIlen v
  | wroteIbuf i b => exact h.ibufWrite i b
  | ranCommand i w _ hexec =>
    have hcmd : State.Inv { s with cmd := w } := { h with }
    exact hcmd.exec hexec
  | refusedWord w =>
    have hcmd : State.Inv { s with cmd := w } := { h with }
    exact hcmd.raise (Raise.legal_of_pos_zero (by simp) rfl _)
  | wasReset => exact h.platformReset

end State.Inv

/-- Settles O20: a step has one of the effects of an event, and each of them keeps the invariant. -/
theorem everyStepKeepsTheInvariant : Obligations.EveryStepKeepsTheInvariant := by
  intro s t h hstep
  obtain ⟨rest, heffect⟩ := step_effect hstep
  have hpending : State.Inv { s with pending := rest } := { h with }
  exact hpending.eventEffect heffect

end Sys2Proof.Machine
end

section
/-! SUPPORT. Where a host access at an offset of the register window arrives, and the writes of the
operand registers. -/

namespace Sys2Proof.Machine

theorem Config.offsetOf_base_add (c : Config) {off : Nat} (h : off < Offset.last) :
    Config.offsetOf c (c.base + off) = some off := by
  have hwindow : c.base ≤ c.base + off ∧ c.base + off < c.base + Offset.last := by omega
  rw [Config.offsetOf, if_pos hwindow, Nat.add_sub_cancel_left]

theorem step_access {s : State} {a : Access} {rest : List Event}
    (h : s.pending = .access a :: rest) :
    step s = State.perform { s with pending := rest } a := by
  rw [step, h]
  rfl

theorem State.perform_register (s : State) {off : Nat} (k : AccessKind) (h : off < Offset.ibuf) :
    s.perform ⟨.host, s.config.base + off, k⟩ = s.registerAccess off k := by
  have hoff : Config.offsetOf s.config (s.config.base + off) = some off :=
    Config.offsetOf_base_add _ (h.trans (by decide))
  simp only [State.perform, hoff, if_pos h]

/-- A host write in the register window is a write of the register there (`20_memory.md` R72). -/
theorem step_registerWrite {s : State} {off : Nat} {v : Word} {rest : List Event}
    (h : s.pending = .access ⟨.host, s.config.base + off, .write32 v⟩ :: rest)
    (hoff : off < Offset.ibuf) (haligned : off % 4 = 0) :
    step s = State.registerWrite { s with pending := rest } off v := by
  rw [step_access h, State.perform_register { s with pending := rest } _ hoff]
  exact if_pos haligned

theorem State.registerWrite_d0 (s : State) (v : Word) :
    s.registerWrite Offset.d0 v = .next { s with d0 := v } := rfl

theorem State.registerWrite_d1 (s : State) (v : Word) :
    s.registerWrite Offset.d1 v = .next { s with d1 := v } := rfl

theorem State.registerWrite_ilen (s : State) (v : Word) :
    s.registerWrite Offset.ilen v = .next (s.writeIlen v) := rfl

/-- Settles O12: each write arrives at its register, and the legal sizes are not needed, since
min(v, IBUF_SIZE) fits in 32 bits as v does. -/
theorem hostWritesOfOperandRegisters : Obligations.HostWritesOfOperandRegisters := by
  intro s v rest _
  refine ⟨fun h => ?_, fun h => ?_, fun h => ?_⟩ <;>
    rw [step_registerWrite h (by decide) (by decide)]
  · exact State.registerWrite_d0 _ v
  · exact State.registerWrite_d1 _ v
  · exact ⟨_, State.registerWrite_ilen _ v, State.writeIlen_ilen_toNat _ v, rfl⟩

end Sys2Proof.Machine
end

section
/-! SUPPORT. What a command writes (`10_state.md` R60), and that it reads no earlier result
(`10_state.md` R44). -/

namespace Sys2Proof.Machine

open Sys2Proof.Laws Sys2Proof.Claims

theorem writesOutput_of_appends {i : Instr} (h : appends i = true) : writesOutput i = true := by
  cases i with
  | obufClear => rfl
  | _ => exact h

/-- Settles O23: of the three shapes of command only the one that concludes is outside
`writesOutput`, and it keeps OBUF and OLEN. -/
theorem commandsWriteOnlyTheirOutputs : Obligations.CommandsWriteOnlyTheirOutputs := by
  intro i s t hexec
  rcases exec_cases i s with ⟨-, -, he⟩ | ⟨happ, he⟩ | ⟨rfl, he⟩ <;>
    cases he.symm.trans hexec
  · simp
  · simp [writesOutput_of_appends happ]
  · simp [writesOutput]

theorem State.validated_congr {s s' : State} (h : s'.d0 = s.d0) (f : Field) :
    s'.validated f = s.validated f := by
  simp only [State.validated, State.operand, h]

/-- What a command concludes with is a function of D0, D1 and the view. -/
theorem conclusion_congr {s s' : State} (h0 : s'.d0 = s.d0) (h1 : s'.d1 = s.d1) (i : Instr)
    (V : List Byte) : conclusion i s' V = conclusion i s V := by
  unfold conclusion
  simp only [State.validated_congr h0, State.operand, h0, h1]

/-- What a command offers to append is a function of D0. -/
theorem output_congr {s s' : State} (h0 : s'.d0 = s.d0) (i : Instr) : output i s' = output i s := by
  unfold output
  simp only [State.validated_congr h0, State.operand, h0]

/-- `s` with other results of the command before, and another word in CMD. -/
def State.withResults (s : State) (st dout ev ep cmd : Word) : State :=
  { s with status := st, dout := dout, eval := ev, epos := ep, cmd := cmd }

section EarlierResults

variable (s : State) (st dout ev ep cmd : Word)

theorem conclusion_withResults (i : Instr) (V : List Byte) :
    conclusion i (s.withResults st dout ev ep cmd) V = conclusion i s V :=
  conclusion_congr rfl rfl i V

theorem output_withResults (i : Instr) :
    output i (s.withResults st dout ev ep cmd) = output i s := output_congr rfl i

theorem State.view_withResults (off : Nat) :
    (s.withResults st dout ev ep cmd).view off = s.view off := rfl

/-- The end of a command overwrites the results before it. -/
theorem State.conclude_withResults (x : Except Raise Nat) :
    (s.withResults st dout ev ep cmd).conclude x = { s.conclude x with cmd := cmd } := by
  cases x <;> rfl

/-- The end of a serializing command overwrites the results before it. -/
theorem State.emit_withResults (x : Except Raise (List Byte)) :
    (s.withResults st dout ev ep cmd).emit x = { s.emit x with cmd := cmd } := by
  cases x with
  | error r => rfl
  | ok L =>
    rcases s.append_cases L with ⟨hfull, -⟩ | ⟨hroom, -⟩
    · rw [State.emit_full hfull, State.emit_full (s := s.withResults st dout ev ep cmd) hfull]
      rfl
    · rw [State.emit_room hroom, State.emit_room (s := s.withResults st dout ev ep cmd) hroom]
      rfl

theorem exec_withResults (i : Instr) {t : State} (hexec : exec i s = .next t) :
    exec i (s.withResults st dout ev ep cmd) = .next { t with cmd := cmd } := by
  rcases exec_cases i s with ⟨happ, hclear, he⟩ | ⟨happ, he⟩ | ⟨rfl, he⟩ <;>
    cases he.symm.trans hexec
  · rw [exec_concludes happ hclear, State.view_withResults, conclusion_withResults,
      State.conclude_withResults]
  · rw [exec_emits happ, output_withResults, State.emit_withResults]
  · rfl

end EarlierResults

/-- Settles O26: a command reads the operands and the view, and its end overwrites every result. -/
theorem outcomeIgnoresEarlierResults : Obligations.OutcomeIgnoresEarlierResults :=
  fun i s _ st dout ev ep cmd hexec => exec_withResults s st dout ev ep cmd i hexec

end Sys2Proof.Machine
end

section
/-! SUPPORT. A host access of each of the three windows: where it arrives, what it answers or
writes, and when it is refused (`20_memory.md` R71 to R73). -/

namespace Sys2Proof.Machine

/-! ### Where an access arrives -/

theorem Config.offsetOf_base_add_of_le (c : Config) {off : Nat} (h : 0x3000 ≤ off) :
    Config.offsetOf c (c.base + off) = none :=
  if_neg fun hwindow => absurd hwindow.2 (Nat.add_le_add_left h c.base).not_gt

theorem State.perform_ibuf (s : State) {off : Nat} (k : AccessKind) (hlo : 0x1000 ≤ off)
    (hhi : off < 0x2000) :
    s.perform ⟨.host, s.config.base + off, k⟩ = s.ibufAccess (off - 0x1000) k := by
  have hoff := Config.offsetOf_base_add s.config (hhi.trans (by decide : 0x2000 < 0x3000))
  simp only [State.perform, hoff, if_neg hlo.not_gt, if_pos hhi]

theorem State.perform_obuf (s : State) {off : Nat} (k : AccessKind) (hlo : 0x2000 ≤ off)
    (hhi : off < 0x3000) :
    s.perform ⟨.host, s.config.base + off, k⟩ = s.obufAccess (off - 0x2000) k := by
  have hoff := Config.offsetOf_base_add s.config hhi
  have hibuf : ¬ off < 0x1000 := by omega
  simp only [State.perform, hoff, if_neg hibuf, if_neg hlo.not_gt]

theorem State.perform_beyond (s : State) {off : Nat} (k : AccessKind) (h : 0x3000 ≤ off) :
    s.perform ⟨.host, s.config.base + off, k⟩ = .refused .outsideInterface := by
  simp only [State.perform, Config.offsetOf_base_add_of_le s.config h]

section Arrival

variable {s : State} {off : Nat} {k : AccessKind} {rest : List Event}

theorem step_registerAccess (h : s.pending = .access ⟨.host, s.config.base + off, k⟩ :: rest)
    (hoff : off < 0x1000) :
    step s = State.registerAccess { s with pending := rest } off k :=
  (step_access h).trans (State.perform_register { s with pending := rest } k hoff)

theorem step_ibufAccess (h : s.pending = .access ⟨.host, s.config.base + off, k⟩ :: rest)
    (hlo : 0x1000 ≤ off) (hhi : off < 0x2000) :
    step s = State.ibufAccess { s with pending := rest } (off - 0x1000) k :=
  (step_access h).trans (State.perform_ibuf { s with pending := rest } k hlo hhi)

theorem step_obufAccess (h : s.pending = .access ⟨.host, s.config.base + off, k⟩ :: rest)
    (hlo : 0x2000 ≤ off) (hhi : off < 0x3000) :
    step s = State.obufAccess { s with pending := rest } (off - 0x2000) k :=
  (step_access h).trans (State.perform_obuf { s with pending := rest } k hlo hhi)

theorem step_accessBeyond (h : s.pending = .access ⟨.host, s.config.base + off, k⟩ :: rest)
    (hoff : 0x3000 ≤ off) : step s = .refused .outsideInterface :=
  (step_access h).trans (State.perform_beyond { s with pending := rest } k hoff)

theorem step_registerRead (h : s.pending = .access ⟨.host, s.config.base + off, .read32⟩ :: rest)
    (hoff : off < 0x1000) (haligned : off % 4 = 0) :
    step s = .next (State.answer { s with pending := rest } (.word (s.registerRead off))) :=
  (step_registerAccess h hoff).trans (if_pos haligned)

end Arrival

/-- Settles O11: an aligned read answers `registerRead`, which is the table of the statement. -/
theorem registerReadsReturnTheRegister : Obligations.RegisterReadsReturnTheRegister :=
  fun _ _ _ hoff haligned hpending => step_registerRead hpending hoff haligned

/-! ### Reserved and read-only locations (`20_memory.md` R73) -/

section Reserved

variable {s : State} {off i : Nat}

theorem State.registerRead_reserved (h : 0x020 < off) : s.registerRead off = 0#32 := by
  have hne : ∀ r, r ≤ 0x020 → off ≠ r := fun r hr => by omega
  simp (disch := decide) only [State.registerRead, hne, if_false]

theorem State.registerWrite_ignored {v : Word} (hcmd : off ≠ 0x000) (h0 : off ≠ 0x008)
    (h1 : off ≠ 0x00C) (hilen : off ≠ 0x01C) : s.registerWrite off v = .next s := by
  simp only [State.registerWrite, if_neg hcmd, if_neg h0, if_neg h1, if_neg hilen]

theorem State.ibufAccess_read_beyond (h : s.config.ibufSize ≤ i) :
    s.ibufAccess i .read8 = .next (s.answer (.byte 0#8)) := by
  rw [State.ibufAccess, State.ibufRead, if_neg h.not_gt]

theorem State.obufAccess_read_beyond (h : s.config.obufSize ≤ i) :
    s.obufAccess i .read8 = .next (s.answer (.byte 0#8)) := by
  rw [State.obufAccess, State.obufRead, if_neg h.not_gt]

theorem State.ibufAccess_write_beyond {b : Byte} (h : s.config.ibufSize ≤ i) :
    s.ibufAccess i (.write8 b) = .next s := by
  rw [State.ibufAccess, State.ibufWrite, if_neg h.not_gt]

end Reserved

section Ignored

variable {s : State} {off : Nat} {rest : List Event}

theorem step_readOnlyOrReservedWrite {v : Word}
    (h : s.pending = .access ⟨.host, s.config.base + off, .write32 v⟩ :: rest)
    (hoff : off < 0x1000) (haligned : off % 4 = 0)
    (hregister : off = 0x004 ∨ off = 0x010 ∨ off = 0x014 ∨ off = 0x018 ∨ 0x020 ≤ off) :
    step s = .next { s with pending := rest } := by
  rw [step_registerWrite h hoff haligned]
  exact State.registerWrite_ignored (by omega) (by omega) (by omega) (by omega)

theorem step_reservedRead
    (h : s.pending = .access ⟨.host, s.config.base + off, .read32⟩ :: rest)
    (hlo : 0x020 < off) (hhi : off < 0x1000) (haligned : off % 4 = 0) :
    step s = .next (State.answer { s with pending := rest } (.word 0#32)) := by
  rw [step_registerRead h hhi haligned, State.registerRead_reserved hlo]

/-- A byte write past IBUF_SIZE in the IBUF window, or anywhere in the OBUF window. -/
theorem step_ignoredByteWrite {b : Byte}
    (h : s.pending = .access ⟨.host, s.config.base + off, .write8 b⟩ :: rest)
    (hlo : 0x1000 + s.config.ibufSize ≤ off) (hhi : off < 0x3000) :
    step s = .next { s with pending := rest } := by
  rcases Nat.lt_or_ge off 0x2000 with hibuf | hobuf
  · rw [step_ibufAccess h (by omega) hibuf]
    exact State.ibufAccess_write_beyond (Nat.le_sub_of_add_le' hlo)
  · exact step_obufAccess h hobuf hhi

theorem step_ibufReadBeyond
    (h : s.pending = .access ⟨.host, s.config.base + off, .read8⟩ :: rest)
    (hlo : 0x1000 + s.config.ibufSize ≤ off) (hhi : off < 0x2000) :
    step s = .next (State.answer { s with pending := rest } (.byte 0#8)) :=
  (step_ibufAccess h (by omega) hhi).trans
    (State.ibufAccess_read_beyond (Nat.le_sub_of_add_le' hlo))

theorem step_obufReadBeyond
    (h : s.pending = .access ⟨.host, s.config.base + off, .read8⟩ :: rest)
    (hlo : 0x2000 + s.config.obufSize ≤ off) (hhi : off < 0x3000) :
    step s = .next (State.answer { s with pending := rest } (.byte 0#8)) :=
  (step_obufAccess h (by omega) hhi).trans
    (State.obufAccess_read_beyond (Nat.le_sub_of_add_le' hlo))

end Ignored

/-- Settles O13: one clause per kind of access; the legal sizes are not needed, since the bounds on
the offset already say which window it lies in. -/
theorem reservedAndReadOnlyAccesses : Obligations.ReservedAndReadOnlyAccesses := by
  intro s off rest _
  refine ⟨fun v h hoff haligned hregister => ?_, fun h hlo hhi haligned => ?_,
    fun b h hlo hhi => ?_, fun h hrange => ?_⟩
  · exact step_readOnlyOrReservedWrite h hoff haligned hregister
  · exact step_reservedRead h (by omega) hhi haligned
  · exact step_ignoredByteWrite h hlo hhi
  · rcases hrange with ⟨hlo, hhi⟩ | ⟨hlo, hhi⟩
    · exact step_ibufReadBeyond h hlo hhi
    · exact step_obufReadBeyond h hlo hhi

/-! ### The bytes of the buffers (`20_memory.md` R71) -/

section Bytes

variable {s : State} {i : Nat}

theorem State.ibufAccess_read_within (h : i < s.config.ibufSize) :
    s.ibufAccess i .read8 = .next (s.answer (.byte (s.ibufByte i))) := by
  rw [State.ibufAccess, State.ibufRead, if_pos h]

theorem State.obufAccess_read_within (h : i < s.config.obufSize) :
    s.obufAccess i .read8 = .next (s.answer (.byte (s.obufByte i))) := by
  rw [State.obufAccess, State.obufRead, if_pos h]

theorem State.ibufAccess_write_within {b : Byte} (h : i < s.config.ibufSize) :
    s.ibufAccess i (.write8 b) = .next { s with ibuf := Memory.store s.ibuf i b } := by
  rw [State.ibufAccess, State.ibufWrite, if_pos h]

end Bytes

section Windows

variable {s : State} {i : Nat} {k : AccessKind} {rest : List Event}

/-- `step_ibufAccess` by the index of the byte. -/
theorem step_ibufAccess_index
    (h : s.pending = .access ⟨.host, s.config.base + 0x1000 + i, k⟩ :: rest) (hi : i < 4096) :
    step s = State.ibufAccess { s with pending := rest } i k := by
  rw [Nat.add_assoc] at h
  rw [step_ibufAccess h (Nat.le_add_right _ _) (by omega), Nat.add_sub_cancel_left]

/-- `step_obufAccess` by the index of the byte. -/
theorem step_obufAccess_index
    (h : s.pending = .access ⟨.host, s.config.base + 0x2000 + i, k⟩ :: rest) (hi : i < 4096) :
    step s = State.obufAccess { s with pending := rest } i k := by
  rw [Nat.add_assoc] at h
  rw [step_obufAccess h (Nat.le_add_right _ _) (by omega), Nat.add_sub_cancel_left]

end Windows

/-- Settles O14: the legal sizes keep each buffer inside its window of 4096 bytes. -/
theorem bufferWindowAccesses : Obligations.BufferWindowAccesses := by
  intro s i rest hok
  obtain ⟨-, hibufMax, -, hobufMax⟩ := (Config.ok_iff _).1 hok
  refine ⟨fun b h hi => ?_, fun h hi => ?_, fun h hi => ?_⟩
  · have hbyte := fun j => State.ibufByte_store { s with pending := rest } i j b
    refine ⟨_, (step_ibufAccess_index h (by omega)).trans (State.ibufAccess_write_within hi),
      (hbyte i).trans (if_pos rfl), fun j hj => (hbyte j).trans (if_neg hj), rfl⟩
  · exact (step_ibufAccess_index h (by omega)).trans (State.ibufAccess_read_within hi)
  · exact (step_obufAccess_index h (by omega)).trans (State.obufAccess_read_within hi)

/-! ### Which accesses are refused (`20_memory.md` R72) -/

theorem exec_completes (i : Instr) (s : State) : ∃ t, exec i s = .next t := by
  rcases exec_cases i s with ⟨-, -, h⟩ | ⟨-, h⟩ | ⟨-, h⟩ <;> exact ⟨_, h⟩

theorem State.commandWrite_completes (s : State) (w : Word) : ∃ t, s.commandWrite w = .next t := by
  unfold State.commandWrite
  split
  · exact exec_completes _ _
  · exact ⟨_, rfl⟩

theorem State.registerWrite_completes (s : State) (off : Nat) (v : Word) :
    ∃ t, s.registerWrite off v = .next t := by
  unfold State.registerWrite
  split_ifs
  · exact s.commandWrite_completes v
  all_goals exact ⟨_, rfl⟩

/-- An access of 32 bits. -/
def AccessKind.IsWord (k : AccessKind) : Prop := (∃ v, k = .write32 v) ∨ k = .read32

/-- An access of 8 bits. -/
def AccessKind.IsByte (k : AccessKind) : Prop := (∃ b, k = .write8 b) ∨ k = .read8

theorem State.registerAccess_refused_iff (s : State) (off : Nat) (k : AccessKind) :
    s.registerAccess off k = .refused .outsideInterface ↔ ¬ (k.IsWord ∧ off % 4 = 0) := by
  cases k with
  | read32 => by_cases h : off % 4 = 0 <;> simp [State.registerAccess, AccessKind.IsWord, h]
  | write32 v =>
    obtain ⟨t, ht⟩ := s.registerWrite_completes off v
    by_cases h : off % 4 = 0 <;> simp [State.registerAccess, AccessKind.IsWord, h, ht]
  | read8 | write8 _ | otherWidth => simp [State.registerAccess, AccessKind.IsWord]

theorem State.ibufAccess_refused_iff (s : State) (i : Nat) (k : AccessKind) :
    s.ibufAccess i k = .refused .outsideInterface ↔ ¬ k.IsByte := by
  cases k <;> simp [State.ibufAccess, AccessKind.IsByte]

theorem State.obufAccess_refused_iff (s : State) (i : Nat) (k : AccessKind) :
    s.obufAccess i k = .refused .outsideInterface ↔ ¬ k.IsByte := by
  cases k <;> simp [State.obufAccess, AccessKind.IsByte]

theorem step_refused_iff {s : State} {off : Nat} {k : AccessKind} {rest : List Event}
    (h : s.pending = .access ⟨.host, s.config.base + off, k⟩ :: rest) :
    step s = .refused .outsideInterface ↔
      ¬ ((k.IsWord ∧ off < 0x1000 ∧ off % 4 = 0) ∨
         (k.IsByte ∧ 0x1000 ≤ off ∧ off < 0x3000)) := by
  rcases Nat.lt_or_ge off 0x1000 with hregister | hbuffer
  · rw [step_registerAccess h hregister, State.registerAccess_refused_iff]
    simp [hregister, hregister.not_ge]
  rcases Nat.lt_or_ge off 0x3000 with hwindow | hbeyond
  · have hbyte : step s = .refused .outsideInterface ↔ ¬ k.IsByte := by
      rcases Nat.lt_or_ge off 0x2000 with hibuf | hobuf
      · rw [step_ibufAccess h hbuffer hibuf, State.ibufAccess_refused_iff]
      · rw [step_obufAccess h hobuf hwindow, State.obufAccess_refused_iff]
    rw [hbyte]
    simp [hbuffer, hbuffer.not_gt, hwindow]
  · simp [step_accessBeyond h hbeyond, hbuffer.not_gt, hbeyond.not_gt]

/-- Settles O15: `step_refused_iff`, window by window. -/
theorem outsideAccessesAreRefused : Obligations.OutsideAccessesAreRefused :=
  fun _ _ _ _ hpending => step_refused_iff hpending

end Sys2Proof.Machine
end

section
/-! SUPPORT. The view, and that a command reads IBUF through the view alone (`20_memory.md` R76). -/

namespace Sys2Proof.Machine

open Sys2Proof.Laws

theorem State.view_getElem (s : State) (off j : Nat) (h : j < (s.view off).length) :
    (s.view off)[j] = s.ibufByte (off + j) := by
  simp [State.view]

/-- Settles O28: the length of a view is a truncated subtraction, so 0 from ILEN on. -/
theorem viewIsTheBytesBelowIlen : Obligations.ViewIsTheBytesBelowIlen := by
  refine fun s off => ⟨?_, s.view_getElem off⟩
  rw [State.view_length]
  split_ifs <;> omega

/-- Two states with the same ILEN and the same bytes below it have the same views. -/
theorem State.view_congr {s s' : State} (hilen : s'.ilen = s.ilen)
    (hbytes : ∀ k, k < s.ilen.toNat → s'.ibufByte k = s.ibufByte k) (off : Nat) :
    s'.view off = s.view off := by
  unfold State.view
  rw [hilen]
  refine List.map_congr_left fun j hj => hbytes _ ?_
  have := List.mem_range.1 hj
  omega

/-- `s` with another input buffer, drawn by another reset. -/
def State.withInput (s : State) (m : Memory) (r : Nat) : State := { s with ibuf := m, resets := r }

section Input

variable (s : State) (m : Memory) (r : Nat)

theorem State.conclude_withInput (x : Except Raise Nat) :
    (s.withInput m r).conclude x = (s.conclude x).withInput m r := by
  cases x <;> rfl

theorem State.emit_withInput (x : Except Raise (List Byte)) :
    (s.withInput m r).emit x = (s.emit x).withInput m r := by
  cases x with
  | error e => rfl
  | ok L =>
    rcases s.append_cases L with ⟨hfull, -⟩ | ⟨hroom, -⟩
    · rw [State.emit_full hfull, State.emit_full (s := s.withInput m r) hfull]
      rfl
    · rw [State.emit_room hroom, State.emit_room (s := s.withInput m r) hroom]
      rfl

theorem exec_withInput (i : Instr) {t : State}
    (hview : ∀ off, (s.withInput m r).view off = s.view off) (hexec : exec i s = .next t) :
    exec i (s.withInput m r) = .next (t.withInput m r) := by
  rcases exec_cases i s with ⟨happ, hclear, he⟩ | ⟨happ, he⟩ | ⟨rfl, he⟩ <;>
    cases he.symm.trans hexec
  · have hconclusion : ∀ V, conclusion i (s.withInput m r) V = conclusion i s V :=
      conclusion_congr rfl rfl i
    rw [exec_concludes happ hclear, hview, hconclusion, State.conclude_withInput]
  · have houtput : output i (s.withInput m r) = output i s := output_congr rfl i
    rw [exec_emits happ, houtput, State.emit_withInput]
  · rfl

end Input

/-- Settles O27: buffers that agree below ILEN have the same views, and a command reads nothing else
of them. -/
theorem outcomeIgnoresBytesBeyondIlen : Obligations.OutcomeIgnoresBytesBeyondIlen :=
  fun i s _ m r hbytes hexec => exec_withInput s m r i (State.view_congr rfl hbytes) hexec

end Sys2Proof.Machine
end

section
/-! SUPPORT. The words of the commands: which IMM values a format allows, the lanes read back, and
each row of the opcode map as the encoder writes it (`30_encoding.md` R100 to R108). -/

namespace Sys2Proof

open Sys2Proof.Laws Sys2Proof.Claims

/-! ### The IMM values of a format (`30_encoding.md` R101) -/

/-- How many low bits of IMM a format uses. -/
def Format.immBits : Format → Nat
  | .n => 0
  | .v => 16
  | .t => 6
  | .f => 2

/-- The number of IMM values a format allows. -/
def Format.immCount (fmt : Format) : Nat := 2 ^ fmt.immBits

theorem allowedMask_toNat (fmt : Format) : (allowedMask fmt).toNat = 2 ^ fmt.immBits - 1 := by
  cases fmt <;> rfl

theorem Format.immCount_le (fmt : Format) : fmt.immCount ≤ 2 ^ 24 := by
  cases fmt <;> decide

theorem and_not_eq_zero_iff {n : Nat} (x m : BitVec n) : x &&& ~~~m = 0#n ↔ x &&& m = x := by
  constructor
  · intro h
    calc x &&& m = (x &&& m) ||| (x &&& ~~~m) := by rw [h, BitVec.or_zero]
      _ = x := by ext i hi; simp [← Bool.and_or_distrib_left]
  · intro h
    rw [← h]
    ext i hi
    simp [Bool.and_assoc]

/-- No reserved bit is set exactly when IMM is below the number of values of its format. -/
theorem reservedBits_eq_zero_iff (fmt : Format) (imm : BitVec 24) :
    imm &&& ~~~(allowedMask fmt) = 0#24 ↔ imm.toNat < fmt.immCount := by
  rw [and_not_eq_zero_iff, ← BitVec.toNat_inj, BitVec.toNat_and, allowedMask_toNat,
    Nat.and_two_pow_sub_one_eq_mod, Nat.mod_eq_iff_lt (by positivity), Format.immCount]

/-- The row allows this IMM and builds the command `i` from it. -/
def Entry.Reads (e : Entry) (imm : BitVec 24) (i : Instr) : Prop :=
  imm.toNat < e.format.immCount ∧ e.build imm = i

/-- A word decodes to what the row of its OPCODE reads from its IMM. -/
theorem decode_eq_ok_iff {w : Word} {i : Instr} :
    decode w = .ok i ↔ ∃ e, opcodeMap (opcodeField w).toNat = some e ∧ e.Reads (immField w) i := by
  unfold decode Entry.Reads
  cases opcodeMap (opcodeField w).toNat with
  | none => simp
  | some e =>
    by_cases h : (immField w).toNat < e.format.immCount <;> simp [reservedBits_eq_zero_iff, h]

/-! ### The lanes of IMM (`30_encoding.md` R102 to R104) -/

theorem offLane_eq (imm : BitVec 24) : offLane imm = imm.toNat % 65536 := by
  simp [offLane]

theorem ofNat_offLane {imm : BitVec 24} (h : imm.toNat < 65536) :
    BitVec.ofNat 24 (offLane imm) = imm := by
  rw [offLane_eq, Nat.mod_eq_of_lt h, BitVec.ofNat_toNat, BitVec.setWidth_eq]

theorem ofNat_tosLanes {imm : BitVec 24} (h : imm.toNat < 64) :
    BitVec.ofNat 24 (tosLanes (precLane imm) (imm.getLsbD 3) (imm.getLsbD 4) (imm.getLsbD 5))
      = imm := by
  have hlanes : ∀ n < 64, BitVec.ofNat 24 (tosLanes (precLane (BitVec.ofNat 24 n))
      ((BitVec.ofNat 24 n).getLsbD 3) ((BitVec.ofNat 24 n).getLsbD 4)
      ((BitVec.ofNat 24 n).getLsbD 5)) = BitVec.ofNat 24 n := by decide
  simpa using hlanes imm.toNat h

theorem ofNat_flagLanes {imm : BitVec 24} (h : imm.toNat < 4) :
    BitVec.ofNat 24 (flagLanes (imm.getLsbD 0) (imm.getLsbD 1)) = imm := by
  have hlanes : ∀ n < 4, BitVec.ofNat 24 (flagLanes ((BitVec.ofNat 24 n).getLsbD 0)
      ((BitVec.ofNat 24 n).getLsbD 1)) = BitVec.ofNat 24 n := by decide
  simpa using hlanes imm.toNat h

theorem Entry.reads_n (i : Instr) : (Entry.n i).Reads 0#24 i := ⟨Nat.one_pos, rfl⟩

theorem Entry.reads_v (mk : Nat → Instr) {off : Nat} (h : off < 65536) :
    (Entry.v mk).Reads (BitVec.ofNat 24 off) (mk off) := by
  have hoff : (BitVec.ofNat 24 off).toNat = off :=
    (BitVec.toNat_ofNat ..).trans (Nat.mod_eq_of_lt (by omega))
  refine ⟨hoff.trans_lt h, congrArg mk ?_⟩
  rw [offLane_eq, hoff, Nat.mod_eq_of_lt h]

theorem Entry.reads_t (mk : Nat → Bool → Bool → Bool → Instr) {prec : Nat} (h : prec < 8)
    (ld ht hr : Bool) :
    (Entry.t mk).Reads (BitVec.ofNat 24 (tosLanes prec ld ht hr)) (mk prec ld ht hr) := by
  have hlanes : ∀ p < 8, ∀ a b c, (BitVec.ofNat 24 (tosLanes p a b c)).toNat < 64 ∧
      precLane (BitVec.ofNat 24 (tosLanes p a b c)) = p ∧
      (BitVec.ofNat 24 (tosLanes p a b c)).getLsbD 3 = a ∧
      (BitVec.ofNat 24 (tosLanes p a b c)).getLsbD 4 = b ∧
      (BitVec.ofNat 24 (tosLanes p a b c)).getLsbD 5 = c := by decide
  obtain ⟨hlt, h0, h3, h4, h5⟩ := hlanes prec h ld ht hr
  exact ⟨hlt, by rw [Entry.build, h0, h3, h4, h5]⟩

theorem Entry.reads_f (mk : Bool → Bool → Instr) (df mf : Bool) :
    (Entry.f mk).Reads (BitVec.ofNat 24 (flagLanes df mf)) (mk df mf) := by
  refine ⟨?_, ?_⟩
  · have hlt : ∀ a b, (BitVec.ofNat 24 (flagLanes a b)).toNat < 4 := by decide
    exact hlt df mf
  · cases df <;> cases mf <;> rfl

/-! ### The rows of the opcode map (`30_encoding.md` R106) -/

/-- `i` is a command with an encoding, of this OPCODE and this IMM. -/
def Instr.HasFields (i : Instr) (op : Nat) (imm : BitVec 24) : Prop :=
  i.wellFormed = true ∧ i.opcode.toNat = op ∧ i.imm = imm

/-- The encoder writes the commands of a row under the OPCODE `op`, with the operands in the lanes of
the row's format. -/
def Entry.EncodesAt (op : Nat) : Entry → Prop
  | .n i => i.HasFields op 0#24
  | .v mk => ∀ off < 65536, (mk off).HasFields op (BitVec.ofNat 24 off)
  | .t mk => ∀ prec < 8, ∀ ld ht hr,
      (mk prec ld ht hr).HasFields op (BitVec.ofNat 24 (tosLanes prec ld ht hr))
  | .f mk => ∀ df mf, (mk df mf).HasFields op (BitVec.ofNat 24 (flagLanes df mf))

/-- Every row of the decoder's map is the encoder's. -/
theorem opcodeMap_encodesAt {op : Nat} {e : Entry} (h : opcodeMap op = some e) :
    e.EncodesAt op := by
  unfold opcodeMap at h
  split at h <;> cases h <;>
    simp +contextual [Entry.EncodesAt, Instr.HasFields, Instr.wellFormed, Instr.opcode, Instr.imm]

/-- What a row reads from an IMM is encoded with that IMM: no bit is dropped. -/
theorem Entry.EncodesAt.hasFields {op : Nat} {e : Entry} {imm : BitVec 24} {i : Instr}
    (h : e.EncodesAt op) (hreads : e.Reads imm i) : i.HasFields op imm := by
  obtain ⟨himm, rfl⟩ := hreads
  cases e with
  | n i =>
    have hzero : imm = 0#24 := BitVec.eq_of_toNat_eq (Nat.lt_one_iff.1 himm)
    exact hzero ▸ h
  | v mk =>
    have hoff := h (offLane imm) (imm.extractLsb' 0 16).isLt
    rwa [ofNat_offLane himm] at hoff
  | t mk =>
    have hlanes := h (precLane imm) (imm.extractLsb' 0 3).isLt (imm.getLsbD 3) (imm.getLsbD 4)
      (imm.getLsbD 5)
    rwa [ofNat_tosLanes himm] at hlanes
  | f mk =>
    have hlanes := h (imm.getLsbD 0) (imm.getLsbD 1)
    rwa [ofNat_flagLanes himm] at hlanes

/-- Every well-formed command has a row under its OPCODE, which reads it from its IMM. -/
theorem opcodeMap_opcode {i : Instr} (h : i.wellFormed = true) :
    ∃ e, opcodeMap i.opcode.toNat = some e ∧ e.Reads i.imm i := by
  cases i with
  | verParse off | ihlParse off | tosParse off | precParse off | tlenParse off | identParse off
  | flagsParse off | foffParse off | ttlParse off | protoParse off | hcsumParse off
  | addrParseBin off | addrParseText off | csumCompute off | csumVerify off =>
    exact ⟨_, rfl, Entry.reads_v _ (of_decide_eq_true h)⟩
  | tosPack prec ld ht hr => exact ⟨_, rfl, Entry.reads_t _ (of_decide_eq_true h) ld ht hr⟩
  | flagsPack df mf => exact ⟨_, rfl, Entry.reads_f _ df mf⟩
  | _ => exact ⟨_, rfl, Entry.reads_n _⟩

/-! ### The two fields of a word (`30_encoding.md` R100) -/

theorem opcodeField_toNat (w : Word) : (opcodeField w).toNat = w.toNat / 2 ^ 24 := by
  have := w.isLt
  rw [opcodeField, BitVec.extractLsb'_toNat, Nat.shiftRight_eq_div_pow]
  exact Nat.mod_eq_of_lt (by omega)

theorem immField_toNat (w : Word) : (immField w).toNat = w.toNat % 2 ^ 24 := by
  rw [immField, BitVec.extractLsb'_toNat, Nat.shiftRight_zero]

theorem toNat_append_imm (op : BitVec 8) (imm : BitVec 24) :
    (op ++ imm).toNat = op.toNat * 2 ^ 24 + imm.toNat := by
  rw [BitVec.toNat_append, ← Nat.shiftLeft_add_eq_or_of_lt imm.isLt, Nat.shiftLeft_eq]

theorem opcodeField_append_immField (w : Word) : opcodeField w ++ immField w = w := by
  apply BitVec.eq_of_toNat_eq
  rw [toNat_append_imm, opcodeField_toNat, immField_toNat, Nat.div_add_mod']

/-! ### Decoding and encoding -/

/-- Settles O3: the two fields of the word lead to the command's own row and IMM. -/
theorem decodeOfEncodeIsIdentity : Obligations.DecodeOfEncodeIsIdentity := by
  intro i hi
  obtain ⟨hop, himm⟩ := FieldsOfWord.of_any i
  rw [decode_eq_ok_iff, hop, himm]
  exact opcodeMap_opcode hi

/-- Settles O4: the command has the two fields of the word, and a word is its two fields. -/
theorem encodeOfDecodeIsIdentity : Obligations.EncodeOfDecodeIsIdentity := by
  intro w i h
  obtain ⟨e, hrow, hreads⟩ := decode_eq_ok_iff.1 h
  obtain ⟨hwf, hop, himm⟩ := (opcodeMap_encodesAt hrow).hasFields hreads
  refine ⟨hwf, ?_⟩
  rw [encode, BitVec.eq_of_toNat_eq hop, himm, opcodeField_append_immField]

/-! ### The legal words (`30_encoding.md` R107, R108) -/

/-- The table of the statements lists the rows of the map, each with the count of its format. -/
theorem mem_opcodeTable_iff {op n : Nat} :
    (op, n) ∈ opcodeTable ↔ ∃ e, opcodeMap op = some e ∧ e.format.immCount = n := by
  constructor
  · have hrows : ∀ row ∈ opcodeTable,
        (opcodeMap row.1).map (fun e => e.format.immCount) = some row.2 := by decide
    exact fun hrow => Option.map_eq_some_iff.1 (hrows _ hrow)
  · rintro ⟨e, hrow, rfl⟩
    unfold opcodeMap at hrow
    split at hrow <;> cases hrow <;> decide

theorem legalWord_iff (w : Word) : LegalWord w ↔ ∃ e,
    opcodeMap (opcodeField w).toNat = some e ∧ (immField w).toNat < e.format.immCount := by
  rw [opcodeField_toNat, immField_toNat]
  constructor
  · rintro ⟨⟨op, n⟩, hmem, rfl, himm⟩
    obtain ⟨e, hrow, rfl⟩ := mem_opcodeTable_iff.1 hmem
    exact ⟨e, hrow, himm⟩
  · rintro ⟨e, hrow, himm⟩
    exact ⟨(_, _), mem_opcodeTable_iff.2 ⟨e, hrow, rfl⟩, rfl, himm⟩

/-- Settles O2: the row of a legal word builds a command from its IMM. -/
theorem wordDecodesIffInOpcodeMap : Obligations.WordDecodesIffInOpcodeMap := by
  intro w
  simp only [decode_eq_ok_iff, legalWord_iff]
  constructor
  · rintro ⟨i, e, hrow, himm, -⟩
    exact ⟨e, hrow, himm⟩
  · rintro ⟨e, hrow, himm⟩
    exact ⟨_, e, hrow, himm, rfl⟩

/-- Settles O1: the words of the opcode map, evaluated. -/
theorem specWordsDecode : Obligations.SpecWordsDecode := by
  unfold Obligations.SpecWordsDecode
  decide

end Sys2Proof
end

section
/-! SUPPORT. The step on the host's write of a word to CMD, and on the access of each host operation
(`30_encoding.md` R107, R110, R112). -/

namespace Sys2Proof.Machine

open Sys2Proof.Claims

/-! ### The write to CMD (`30_encoding.md` R107, R110) -/

/-- The step takes the host's write to CMD and performs it. -/
theorem step_commandEvent {s : State} {w : Word} {rest : List Event}
    (h : s.pending = commandEvent s.config w :: rest) :
    step s = State.commandWrite { s with pending := rest } w :=
  step_registerWrite (off := Offset.cmd) h (by decide) (by decide)

theorem State.commandWrite_ok {w : Word} {i : Instr} (s : State) (h : decode w = .ok i) :
    s.commandWrite w = exec i { s with cmd := w } := by
  rw [State.commandWrite, h]

theorem State.commandWrite_illegal {w : Word} (s : State) (h : ¬ LegalWord w) :
    s.commandWrite w = .next
      { s with cmd := w, status := 13#32, dout := 0#32, eval := w, epos := 0#32 } := by
  rw [← wordDecodesIffInOpcodeMap] at h
  unfold State.commandWrite
  cases hdecode : decode w with
  | ok i => exact absurd ⟨i, hdecode⟩ h
  | error _ => simp [State.raise, statusWord, Code.number]

/-- Settles O5: the write of an illegal word is the raise. -/
theorem illegalWordRaisesIllegalCommand : Obligations.IllegalWordRaisesIllegalCommand :=
  fun s _ rest hpending hw =>
    (step_commandEvent hpending).trans (State.commandWrite_illegal { s with pending := rest } hw)

/-- Settles O6: the write of a word that decodes is the command. -/
theorem stepRunsDecodedCommand : Obligations.StepRunsDecodedCommand :=
  fun s _ rest _ hpending hw =>
    (step_commandEvent hpending).trans (State.commandWrite_ok { s with pending := rest } hw)

theorem decode_of_decodeTableWord {nbits w : Nat} {i : Instr}
    (h : decodeTableWord nbits w = some i) : decode (BitVec.ofNat 32 (w % 2 ^ nbits)) = .ok i := by
  unfold decodeTableWord at h
  split_ifs at h
  split at h
  next j hdecode =>
    cases h
    exact hdecode
  next => cases h

/-- Settles O7: the placed word is a write to CMD, and taking it leaves the accesses of before. -/
theorem stepRunsPlacedWord : Obligations.StepRunsPlacedWord :=
  fun s nbits w i h => stepRunsDecodedCommand (s.withFetchWord nbits w) _ s.pending i rfl
    (decode_of_decodeTableWord h)

/-! ### The host operations (`30_encoding.md` R112) -/

theorem ReadReg.offset_lt (r : ReadReg) : r.offset < 0x1000 := by cases r <;> decide

theorem ReadReg.offset_aligned (r : ReadReg) : r.offset % 4 = 0 := by cases r <;> rfl

/-- The register a `rd` names. -/
def ReadReg.value (s : State) : ReadReg → Word
  | .cmd => s.cmd
  | .status => s.status
  | .d0 => s.d0
  | .d1 => s.d1
  | .dout => s.dout
  | .eval => s.eval
  | .epos => s.epos
  | .ilen => s.ilen
  | .olen => s.olen

theorem State.registerRead_offset (s : State) (r : ReadReg) :
    s.registerRead r.offset = r.value s := by
  cases r <;> rfl

/-- A length up to IBUF_SIZE is stored as it is (`10_state.md` R39). -/
theorem State.registerWrite_ilen_of_le {s : State} {v : Word} (h : v.toNat ≤ s.config.ibufSize) :
    s.registerWrite Offset.ilen v = .next { s with ilen := v } := by
  rw [State.registerWrite_ilen, State.writeIlen, min_eq_left h, BitVec.ofNat_toNat,
    BitVec.setWidth_eq]

section HostOperation

variable {s : State} {rest : List Event}

theorem step_wr {r : WriteReg} {v : Word}
    (h : s.pending = (HostOp.wr r v).event s.config :: rest) :
    step s = State.registerWrite { s with pending := rest } r.offset v :=
  step_registerWrite h (by cases r <;> decide) (by cases r <;> decide)

theorem step_rd {r : ReadReg} (h : s.pending = (HostOp.rd r).event s.config :: rest) :
    step s = .next (State.answer { s with pending := rest } (.word (r.value s))) :=
  (step_registerRead h r.offset_lt r.offset_aligned).trans (by rw [State.registerRead_offset])

theorem step_wrb {i : Nat} {b : Byte} (h : s.pending = (HostOp.wrb i b).event s.config :: rest)
    (hsize : i < s.config.ibufSize) (hwindow : i < 4096) :
    step s = .next { s with pending := rest, ibuf := Memory.store s.ibuf i b } :=
  (step_ibufAccess_index h hwindow).trans
    (State.ibufAccess_write_within (s := { s with pending := rest }) hsize)

theorem step_rdb {i : Nat} (h : s.pending = (HostOp.rdb i).event s.config :: rest)
    (hsize : i < s.config.obufSize) (hwindow : i < 4096) :
    step s = .next (State.answer { s with pending := rest } (.byte (s.obufByte i))) :=
  (step_obufAccess_index h hwindow).trans
    (State.obufAccess_read_within (s := { s with pending := rest }) hsize)

theorem step_cmd {i : Instr} (h : s.pending = (HostOp.cmd i).event s.config :: rest)
    (hi : i.wellFormed = true) :
    step s = exec i { s with pending := rest, cmd := encode i } :=
  stepRunsDecodedCommand s _ rest i h (decodeOfEncodeIsIdentity i hi)

end HostOperation

/-- Settles O9: one rule of the step per host operation. -/
theorem hostOperationsDoWhatTheyName : Obligations.HostOperationsDoWhatTheyName := by
  intro s op rest hpending
  refine ⟨?_, ?_, ?_, ?_, ?_, ?_, ?_⟩
  · rintro v rfl
    exact (step_wr hpending).trans (State.registerWrite_d0 _ v)
  · rintro v rfl
    exact (step_wr hpending).trans (State.registerWrite_d1 _ v)
  · rintro v rfl hv
    exact (step_wr hpending).trans
      (State.registerWrite_ilen_of_le (s := { s with pending := rest }) hv)
  · rintro r rfl
    rw [step_rd hpending]
    cases r <;> rfl
  · rintro i b rfl hsize hwindow
    have hbyte := fun j => State.ibufByte_store { s with pending := rest } i j b
    exact ⟨_, step_wrb hpending hsize hwindow, (hbyte i).trans (if_pos rfl),
      fun j hj => (hbyte j).trans (if_neg hj), rfl⟩
  · rintro i rfl hsize hwindow
    exact step_rdb hpending hsize hwindow
  · rintro i rfl hi
    exact step_cmd hpending hi

end Sys2Proof.Machine
end

section
/-! SUPPORT. The assembler, row by row of the opcode map: which operand lists a row accepts, and the
word of the command it gives (`30_encoding.md` R111). -/

namespace Sys2Proof

open Sys2Proof.Machine Sys2Proof.Claims

/-- The operand lists that fit a format, each with the IMM it builds. -/
def Format.Fits : Format → List Nat → Nat → Prop
  | .n => PlainOperands
  | .v => ViewOperands
  | .t => TosOperands
  | .f => FlagsOperands

theorem Format.Fits.lt_immCount {fmt : Format} {ops : List Nat} {imm : Nat}
    (h : fmt.Fits ops imm) : imm < fmt.immCount := by
  cases fmt with
  | n =>
    obtain ⟨-, rfl⟩ := h
    exact Nat.one_pos
  | v =>
    obtain ⟨-, rfl⟩ | ⟨-, himm⟩ := h
    · exact Nat.two_pow_pos 16
    · exact himm
  | t =>
    obtain ⟨prec, ld, ht, hr, -, hprec, hld, hht, hhr, rfl⟩ := h
    show _ < 64
    omega
  | f =>
    obtain ⟨df, mf, -, hdf, hmf, rfl⟩ := h
    show _ < 4
    omega

/-! ### One-bit operands and lanes -/

@[simp] theorem bitOperand_toNat (b : Bool) : bitOperand b.toNat = some b := by
  cases b <;> rfl

theorem lt_two_of_bitOperand {n : Nat} {b : Bool} (h : bitOperand n = some b) : n < 2 := by
  unfold bitOperand at h
  split at h
  · exact Nat.two_pos
  · exact Nat.one_lt_two
  · cases h

theorem exists_toNat_of_lt_two {n : Nat} (h : n < 2) : ∃ b : Bool, b.toNat = n := by
  interval_cases n
  · exact ⟨false, rfl⟩
  · exact ⟨true, rfl⟩

theorem tosLanes_eq {prec : Nat} (h : prec < 8) (ld ht hr : Bool) :
    tosLanes prec ld ht hr = hr.toNat * 32 + ht.toNat * 16 + ld.toNat * 8 + prec := by
  decide +revert

theorem flagLanes_eq (df mf : Bool) : flagLanes df mf = mf.toNat * 2 + df.toNat := by
  decide +revert

/-! ### The operand lists of a row -/

/-- A list that fits gives the command the row builds from its IMM. -/
theorem assembleEntry_of_fits {e : Entry} {ops : List Nat} {imm : Nat}
    (h : e.format.Fits ops imm) :
    assembleEntry e ops = some (e.build (BitVec.ofNat 24 imm)) := by
  cases e with
  | n i =>
    obtain ⟨rfl, rfl⟩ := h
    rfl
  | v mk =>
    obtain ⟨rfl, rfl⟩ | ⟨rfl, himm⟩ := h
    · rfl
    · rw [(Entry.reads_v mk himm).2]
      exact if_pos himm
  | t mk =>
    obtain ⟨prec, ld, ht, hr, rfl, hprec, hld, hht, hhr, rfl⟩ := h
    obtain ⟨low, rfl⟩ := exists_toNat_of_lt_two hld
    obtain ⟨high, rfl⟩ := exists_toNat_of_lt_two hht
    obtain ⟨rel, rfl⟩ := exists_toNat_of_lt_two hhr
    rw [← tosLanes_eq hprec, (Entry.reads_t mk hprec low high rel).2]
    simp [assembleEntry, hprec]
  | f mk =>
    obtain ⟨df, mf, rfl, hdf, hmf, rfl⟩ := h
    obtain ⟨dont, rfl⟩ := exists_toNat_of_lt_two hdf
    obtain ⟨more, rfl⟩ := exists_toNat_of_lt_two hmf
    rw [← flagLanes_eq, (Entry.reads_f mk dont more).2]
    simp [assembleEntry]

/-- A row accepts no list but those that fit. -/
theorem fits_of_assembleEntry {e : Entry} {ops : List Nat} {i : Instr}
    (h : assembleEntry e ops = some i) : ∃ imm, e.format.Fits ops imm := by
  unfold assembleEntry at h
  split at h
  · exact ⟨0, rfl, rfl⟩
  · exact ⟨0, .inl ⟨rfl, rfl⟩⟩
  next off =>
    split at h
    next hoff => exact ⟨off, .inr ⟨rfl, hoff⟩⟩
    next => cases h
  next prec ld ht hr =>
    split at h
    next hprec =>
      split at h
      next hld hht hhr =>
        exact ⟨_, prec, ld, ht, hr, rfl, hprec, lt_two_of_bitOperand hld,
          lt_two_of_bitOperand hht, lt_two_of_bitOperand hhr, rfl⟩
      next => cases h
    next => cases h
  next df mf =>
    split at h
    next hdf hmf =>
      exact ⟨_, df, mf, rfl, lt_two_of_bitOperand hdf, lt_two_of_bitOperand hmf, rfl⟩
    next => cases h
  · cases h

/-! ### The command of a row and its word -/

theorem encode_toNat (i : Instr) : (encode i).toNat = i.opcode.toNat * 2 ^ 24 + i.imm.toNat :=
  toNat_append_imm _ _

/-- The command a row builds from an IMM is the one well-formed command of that word. -/
theorem build_eq_iff {op imm : Nat} {e : Entry} {i : Instr} (hrow : opcodeMap op = some e)
    (himm : imm < e.format.immCount) :
    e.build (BitVec.ofNat 24 imm) = i ↔
      i.wellFormed = true ∧ (encode i).toNat = op * 2 ^ 24 + imm := by
  have hlt : imm < 2 ^ 24 := himm.trans_le e.format.immCount_le
  have htoNat : (BitVec.ofNat 24 imm).toNat = imm :=
    (BitVec.toNat_ofNat ..).trans (Nat.mod_eq_of_lt hlt)
  rw [encode_toNat]
  constructor
  · intro hbuild
    obtain ⟨hwf, hop, hfield⟩ :=
      (opcodeMap_encodesAt hrow).hasFields ⟨htoNat.trans_lt himm, hbuild⟩
    exact ⟨hwf, by rw [hop, hfield, htoNat]⟩
  · rintro ⟨hwf, hword⟩
    have := i.imm.isLt
    have hop : i.opcode.toNat = op := by omega
    have hfield : i.imm = BitVec.ofNat 24 imm := BitVec.eq_of_toNat_eq (by omega)
    obtain ⟨e', hrow', -, hbuild⟩ := opcodeMap_opcode hwf
    cases hrow.symm.trans (hop ▸ hrow')
    exact hfield ▸ hbuild

/-- A mnemonic of a row of this format assembles as the format says. -/
theorem assemblesAs_of_row {mnemonic : String} {op : Nat} {fmt : Format}
    (hname : mnemonics.lookup mnemonic = some op)
    (hformat : (opcodeMap op).map Entry.format = some fmt) :
    AssemblesAs mnemonic op fmt.Fits := by
  obtain ⟨e, hrow, rfl⟩ := Option.map_eq_some_iff.1 hformat
  have hassemble : ∀ ops, assemble mnemonic ops = assembleEntry e ops := fun ops => by
    rw [assemble, hname, Option.bind_some, hrow, Option.bind_some]
  simp only [AssemblesAs, hassemble]
  refine ⟨fun ops i => ⟨fun h => ?_, ?_⟩, fun ops imm h => ⟨_, assembleEntry_of_fits h⟩,
    fun ops hunfit => ?_⟩
  · obtain ⟨imm, hfits⟩ := fits_of_assembleEntry h
    obtain ⟨hwf, hword⟩ := (build_eq_iff hrow hfits.lt_immCount).1
      (Option.some.inj ((assembleEntry_of_fits hfits).symm.trans h))
    exact ⟨hwf, imm, hfits, hword⟩
  · rintro ⟨hwf, imm, hfits, hword⟩
    rw [assembleEntry_of_fits hfits, (build_eq_iff hrow hfits.lt_immCount).2 ⟨hwf, hword⟩]
  · cases h : assembleEntry e ops with
    | none => rfl
    | some i => exact absurd (fits_of_assembleEntry h) hunfit

/-! ### The mnemonics (`30_encoding.md` R106) -/

theorem plainMnemonics_rows : ∀ row ∈ plainMnemonics,
    mnemonics.lookup row.1 = some row.2 ∧ (opcodeMap row.2).map Entry.format = some .n := by
  decide

theorem viewMnemonics_rows : ∀ row ∈ viewMnemonics,
    mnemonics.lookup row.1 = some row.2 ∧ (opcodeMap row.2).map Entry.format = some .v := by
  decide

theorem mnemonics_listed : ∀ row ∈ mnemonics, row.1 ∈ plainMnemonics.map Prod.fst ∨
    row.1 ∈ viewMnemonics.map Prod.fst ∨ row.1 = "TOS_PACK" ∨ row.1 = "FLAGS_PACK" := by
  decide

/-- Settles O10: every listed mnemonic has a row of its format, and no other mnemonic has a row. -/
theorem assemblerRefusesUnfitOperands : Obligations.AssemblerRefusesUnfitOperands := by
  refine ⟨fun row hrow => ?_, fun row hrow => ?_, ?_, ?_, ?_⟩
  · obtain ⟨hname, hformat⟩ := plainMnemonics_rows row hrow
    exact assemblesAs_of_row hname hformat
  · obtain ⟨hname, hformat⟩ := viewMnemonics_rows row hrow
    exact assemblesAs_of_row hname hformat
  · exact assemblesAs_of_row (fmt := .t) (by decide) rfl
  · exact assemblesAs_of_row (fmt := .f) (by decide) rfl
  · intro mnemonic ops hplain hview htos hflags
    have hname : mnemonics.lookup mnemonic = none := by
      rw [List.lookup_eq_none_iff]
      intro row hrow
      rw [bne_iff_ne]
      rintro rfl
      rcases mnemonics_listed row hrow with h | h | h | h
      · exact hplain h
      · exact hview h
      · exact htos h
      · exact hflags h
    rw [assemble, hname]
    rfl

end Sys2Proof
end

section
/-! SUPPORT. The outcomes of the statements, reached from the way a command ends: a success or a raise
at the end of `conclude`, an append or a raise at the end of `emit`. -/

namespace Sys2Proof.Claims

open Sys2Proof.Machine Sys2Proof.Laws

theorem statusWord_eq_ofNat (c : Code) : statusWord c = BitVec.ofNat 32 c.number.toNat :=
  BitVec.eq_of_toNat_eq (by cases c <;> rfl)

/-- A raise is the one of the statements when its position fits in EPOS (`10_state.md` R37). -/
theorem raises_of_exec {i : Instr} {s : State} {c : Code} {v p : Nat}
    (h : exec i s = .next (s.raise ⟨c, v, p⟩)) (hp : p < 65536) :
    Raises i s c.number.toNat v p := by
  rw [Raises, h, State.raise, statusWord_eq_ofNat, position_fits hp]

section Conclude

variable {i : Instr} {s : State} {x : Except Raise Nat} (h : exec i s = .next (s.conclude x))
include h

theorem succeeds_of_conclude {v : Nat} (hx : x = .ok v) : Succeeds i s v := by
  rw [hx] at h
  exact h

theorem raises_of_conclude {c : Code} {v : Nat} (hx : x = .error ⟨c, v, 0⟩) :
    Raises i s c.number.toNat v 0 :=
  raises_of_exec (by rw [h, hx, State.conclude_error]) (by decide)

end Conclude

section Emit

variable {i : Instr} {s : State} {x : Except Raise (List Byte)} (h : exec i s = .next (s.emit x))
include h

theorem raises_of_emit {c : Code} {v : Nat} (hx : x = .error ⟨c, v, 0⟩) :
    Raises i s c.number.toNat v 0 :=
  raises_of_exec (by rw [h, hx, State.emit_error]) (by decide)

theorem raises_of_emit_full {L : List Byte} (hx : x = .ok L)
    (hfull : s.config.obufSize < s.olen.toNat + L.length) : Raises i s 12 L.length 0 :=
  raises_of_exec (c := .bufferFull) (by rw [h, hx, State.emit_full hfull]) (by decide)

end Emit

/-- OLEN holds the end of an append that fits: the legal sizes are below 2^32. -/
theorem ofNat_olen_toNat {s : State} {n : Nat} (hok : s.config.ok = true)
    (hroom : s.olen.toNat + n ≤ s.config.obufSize) :
    (BitVec.ofNat 32 (s.olen.toNat + n)).toNat = s.olen.toNat + n := by
  obtain ⟨-, -, -, hmax⟩ := (Config.ok_iff _).1 hok
  exact (BitVec.toNat_ofNat ..).trans (Nat.mod_eq_of_lt (by omega))

theorem emits_of_emit {i : Instr} {s : State} {x : Except Raise (List Byte)} {L : List Byte}
    (h : exec i s = .next (s.emit x)) (hx : x = .ok L) (hok : s.config.ok = true)
    (hroom : s.olen.toNat + L.length ≤ s.config.obufSize) : Emits i s L := by
  rw [hx, State.emit_room hroom] at h
  have hbyte := fun a => State.obufByte_storeList s L s.olen.toNat a
    (BitVec.ofNat 32 (s.olen.toNat + L.length))
  refine ⟨_, h, rfl, rfl, rfl, rfl, ofNat_olen_toNat hok hroom, fun k hk => ?_, fun a ha => ?_,
    rfl, rfl, rfl, rfl, rfl, rfl, rfl, rfl, rfl⟩
  · refine (hbyte _).trans ((dif_pos ⟨by omega, by omega⟩).trans ?_)
    simp only [Nat.add_sub_cancel_left]
  · exact (hbyte a).trans (dif_neg (by omega))

/-- The bytes an append added are the bytes it was given. -/
theorem Emits.exists_appended {i : Instr} {s : State} {L : List Byte} (h : Emits i s L) :
    ∃ t, exec i s = .next t ∧ appended s t = L := by
  obtain ⟨t, hexec, -, -, -, -, holen, hbytes, -⟩ := h
  refine ⟨t, hexec, List.ext_getElem ?_ fun k hk hkL => ?_⟩
  · simp [appended, holen]
  · simpa [appended] using hbytes k hkL

/-- A serializing command that reports OK has appended what it offered. -/
theorem output_eq_appended {i : Instr} {s t : State} (happ : appends i = true)
    (hok : s.config.ok = true) (hexec : exec i s = .next t) (hstatus : t.status = 0#32) :
    output i s = .ok (appended s t) := by
  have hemit := exec_emits happ s
  rcases emit_cases s (output i s) with ⟨r, hraise, hr⟩ | ⟨L, hL, hroom, -⟩
  · rw [hraise] at hemit
    cases hemit.symm.trans hexec
    have hcode : r.code = .ok := (statusWord_eq_zero_iff _).1 hstatus
    rcases hr with hr | ⟨L, -, rfl⟩
    · exact absurd hcode (output_raises i s 0 r hr).notOk
    · cases hcode
  · obtain ⟨t', hexec', happended⟩ := (emits_of_emit hemit hL hok hroom).exists_appended
    cases hexec'.symm.trans hexec
    rw [hL, happended]

end Sys2Proof.Claims
end

section
/-! SUPPORT. What the check of each field accepts and what it reports (`10_state.md` R47 to R58). -/

namespace Sys2Proof.Machine

open Sys2Proof.Laws

/-- The check of `f` accepts `v` when it is legal, and otherwise reports it with the code number
`errorOf v`. -/
structure Field.ChecksAs (f : Field) (legal : Nat → Prop) (errorOf : Nat → Nat) (v : Nat) :
    Prop where
  accepts : legal v → f.check v = .ok v
  rejects : ¬ legal v → ∃ c : Code, c.number.toNat = errorOf v ∧ f.check v = .error ⟨c, v, 0⟩

namespace Field.ChecksAs

variable {f : Field} {legal : Nat → Prop} {errorOf : Nat → Nat} {v : Nat}

theorem legal_of_ok (h : f.ChecksAs legal errorOf v) {w : Nat} (hok : f.check v = .ok w) :
    legal v := by
  by_contra hillegal
  obtain ⟨c, -, herror⟩ := h.rejects hillegal
  cases herror.symm.trans hok

/-- The same check, described for the values a parse can extract. -/
theorem of_agree {legal' : Nat → Prop} {errorOf' : Nat → Nat} (h : f.ChecksAs legal errorOf v)
    (hlegal : legal' v ↔ legal v) (herror : ¬ legal v → errorOf' v = errorOf v) :
    f.ChecksAs legal' errorOf' v where
  accepts hv := h.accepts (hlegal.1 hv)
  rejects hv := by
    have hillegal : ¬ legal v := fun hl => hv (hlegal.2 hl)
    rw [herror hillegal]
    exact h.rejects hillegal

/-- A check of a value that is always legal there reports nothing. -/
theorem of_legal (h : f.ChecksAs legal errorOf v) (hv : legal v) (errorOf' : Nat → Nat) :
    f.ChecksAs (fun _ => True) errorOf' v :=
  h.of_agree (iff_of_true trivial hv) fun hillegal => absurd hv hillegal

end Field.ChecksAs

theorem checksAs_version (v : Nat) : Field.ChecksAs .version (· ≤ 15) (fun _ => 5) v where
  accepts h := by rw [check_version, if_neg h.not_gt]
  rejects h := ⟨.valueOutOfRange, rfl, by rw [check_version, if_pos (not_le.1 h)]⟩

theorem checksAs_ihl (v : Nat) :
    Field.ChecksAs .ihl (fun v => 5 ≤ v ∧ v ≤ 15) (fun v => if v < 5 then 3 else 5) v where
  accepts h := by rw [check_ihl, if_neg h.1.not_gt, if_neg h.2.not_gt]
  rejects h := by
    rw [check_ihl]
    by_cases hsmall : v < 5
    · exact ⟨.tooSmall, (if_pos hsmall).symm, if_pos hsmall⟩
    · have hlarge : 15 < v := by omega
      exact ⟨.valueOutOfRange, (if_neg hsmall).symm, by rw [if_neg hsmall, if_pos hlarge]⟩

theorem checksAs_prec (v : Nat) : Field.ChecksAs .prec (· ≤ 7) (fun _ => 5) v where
  accepts h := by rw [check_prec, if_neg h.not_gt]
  rejects h := ⟨.valueOutOfRange, rfl, by rw [check_prec, if_pos (not_le.1 h)]⟩

theorem checksAs_tlen (v : Nat) : Field.ChecksAs .tlen (20 ≤ ·) (fun _ => 3) v where
  accepts h := by rw [check_tlen, if_neg h.not_gt]
  rejects h := ⟨.tooSmall, rfl, by rw [check_tlen, if_pos (not_le.1 h)]⟩

theorem checksAs_foff (v : Nat) : Field.ChecksAs .foff (· ≤ 8191) (fun _ => 5) v where
  accepts h := by rw [check_foff, if_neg h.not_gt]
  rejects h := ⟨.valueOutOfRange, rfl, by rw [check_foff, if_pos (not_le.1 h)]⟩

/-- The two reserved bits of TypeOfService are its remainder by 4. -/
theorem checksAs_tos (v : Nat) : Field.ChecksAs .tos (· % 4 = 0) (fun _ => 4) v := by
  have hmask : v &&& 0b11 = v % 4 := Nat.and_two_pow_sub_one_eq_mod v 2
  constructor <;> rw [check_tos, hmask]
  · exact fun h => if_neg (not_not.2 h)
  · exact fun h => ⟨.reservedBitSet, rfl, if_pos h⟩

/-- Of the values Flags can hold, the reserved bit is set from 4 on. -/
theorem reservedFlag_eq_zero_iff {v : Nat} (h : v ≤ 7) : v &&& 0b100 = 0 ↔ v ≤ 3 := by
  decide +revert

theorem checksAs_flags (v : Nat) :
    Field.ChecksAs .flags (· ≤ 3) (fun v => if 7 < v then 5 else 4) v where
  accepts h := by
    have hrange : v ≤ 7 := h.trans (by decide)
    have hclear : v &&& 0b100 = 0 := (reservedFlag_eq_zero_iff hrange).2 h
    rw [check_flags, if_neg hrange.not_gt, if_neg (not_not.2 hclear)]
  rejects h := by
    rw [check_flags]
    by_cases hrange : 7 < v
    · exact ⟨.valueOutOfRange, (if_pos hrange).symm, if_pos hrange⟩
    · have hset : v &&& 0b100 ≠ 0 := mt (reservedFlag_eq_zero_iff (not_lt.1 hrange)).1 h
      exact ⟨.reservedBitSet, (if_neg hrange).symm, by rw [if_neg hrange, if_pos hset]⟩

end Sys2Proof.Machine
end

section
/-! SUPPORT. The parse of the wire form of a field is the field's value (`41_validated_fields.md` R250,
`42_unvalidated_fields.md` R325). -/

namespace Sys2Proof.Machine

open Sys2Proof.Laws

theorem toByte_toNat {n : Nat} (h : n < 256) : (toByte n).toNat = n :=
  (BitVec.toNat_ofNat ..).trans (Nat.mod_eq_of_lt h)

theorem octetOf_eq (v i : Nat) : octetOf v i = v / 2 ^ i % 256 := by
  rw [octetOf, Nat.shiftRight_eq_div_pow]
  exact Nat.and_two_pow_sub_one_eq_mod _ 8

theorem octetOf_lt (v i : Nat) : octetOf v i < 256 :=
  octetOf_eq v i ▸ Nat.mod_lt _ (by decide)

theorem be16_eq (b0 b1 : Byte) : be16 b0 b1 = b0.toNat * 256 + b1.toNat := by
  rw [be16, ← Nat.shiftLeft_add_eq_or_of_lt b1.isLt, Nat.shiftLeft_eq]

theorem be32_eq {a b c d : Nat} (hb : b < 256) (hc : c < 256) (hd : d < 256) :
    be32 a b c d = a * 2 ^ 24 + b * 2 ^ 16 + c * 2 ^ 8 + d := by
  have hlow : c <<< 8 ||| d = c * 2 ^ 8 + d := by
    rw [← Nat.shiftLeft_add_eq_or_of_lt hd, Nat.shiftLeft_eq]
  have hmid : b <<< 16 ||| (c * 2 ^ 8 + d) = b * 2 ^ 16 + (c * 2 ^ 8 + d) := by
    rw [← Nat.shiftLeft_add_eq_or_of_lt (by omega), Nat.shiftLeft_eq]
  rw [be32, Nat.or_assoc, Nat.or_assoc, hlow, hmid, ← Nat.shiftLeft_add_eq_or_of_lt (by omega),
    Nat.shiftLeft_eq]
  omega

/-- A 32-bit value is its four octets, the first the most significant (`20_memory.md` R74). -/
theorem be32_octetOf {v : Nat} (h : v < 2 ^ 32) :
    be32 (octetOf v 24) (octetOf v 16) (octetOf v 8) (octetOf v 0) = v := by
  rw [be32_eq (octetOf_lt v 16) (octetOf_lt v 8) (octetOf_lt v 0)]
  simp only [octetOf_eq]
  omega

theorem wire16_eq (v : Nat) : wire16 v = [toByte (v / 256), toByte (v % 256)] := by
  rw [wire16, Nat.shiftRight_eq_div_pow, Nat.and_two_pow_sub_one_eq_mod v 8]

/-- The value of a field that stands in one byte, read from the byte the field is written as. -/
theorem parseByte_toByte {f : Field} {v n : Nat} (hn : n < 256) (hwire : f.wire v = [toByte n])
    (hextract : f.extract n = v) (hcheck : f.check v = .ok v) :
    parseByte f (f.wire v) = .ok v := by
  rw [hwire, parseByte, toByte_toNat hn, hextract, hcheck]

/-- The upper bits of a byte hold what was shifted into them. -/
theorem parseByte_shifted {f : Field} {v k : Nat} (hv : v * 2 ^ k < 256)
    (hwire : f.wire v = [toByte (v <<< k)]) (hextract : ∀ n, f.extract n = n >>> k)
    (hcheck : f.check v = .ok v) : parseByte f (f.wire v) = .ok v :=
  parseByte_toByte (by rwa [Nat.shiftLeft_eq]) hwire
    ((hextract _).trans (Nat.shiftLeft_shiftRight v k)) hcheck

/-- The fields of 8 bits: each stands in one byte. -/
theorem parseByte_wire {f : Field} (hwidth : f.storageWidth = 8) {v : Nat} (hv : v < 256)
    (hcheck : f.check v = .ok v) : parseByte f (f.wire v) = .ok v := by
  cases f with
  | version =>
    have : v ≤ 15 := (checksAs_version v).legal_of_ok hcheck
    exact parseByte_shifted (k := 4) (by omega) rfl (fun _ => rfl) hcheck
  | prec =>
    have : v ≤ 7 := (checksAs_prec v).legal_of_ok hcheck
    exact parseByte_shifted (k := 5) (by omega) rfl (fun _ => rfl) hcheck
  | flags =>
    have : v ≤ 3 := (checksAs_flags v).legal_of_ok hcheck
    exact parseByte_shifted (k := 5) (by omega) rfl (fun _ => rfl) hcheck
  | ihl =>
    obtain ⟨-, hv15⟩ := (checksAs_ihl v).legal_of_ok hcheck
    have hlow : v &&& 0x0F = v :=
      (Nat.and_two_pow_sub_one_eq_mod v 4).trans (Nat.mod_eq_of_lt (by omega))
    exact parseByte_toByte hv rfl hlow hcheck
  | tos | ttl | proto => exact parseByte_toByte hv rfl rfl hcheck
  | tlen | ident | foff | hcsum | addr => cases hwidth

/-- The fields of 16 bits: each stands in two bytes. -/
theorem parsePair_wire {f : Field} (hwidth : f.storageWidth = 16) {v : Nat} (hv : v < 65536)
    (hcheck : f.check v = .ok v) : parsePair f (f.wire v) = .ok v := by
  have hwire : f.wire v = wire16 v := by
    cases f with
    | tlen | foff | ident | hcsum => rfl
    | _ => cases hwidth
  have hextract : f.extract v = v := by
    cases f with
    | foff =>
      have : v ≤ 8191 := (checksAs_foff v).legal_of_ok hcheck
      exact (Nat.and_two_pow_sub_one_eq_mod v 13).trans (Nat.mod_eq_of_lt (by omega))
    | tlen | ident | hcsum => rfl
    | _ => cases hwidth
  have hvalue : be16 (toByte (v / 256)) (toByte (v % 256)) = v := by
    rw [be16_eq, toByte_toNat (by omega), toByte_toNat (by omega), Nat.div_add_mod']
  rw [hwire, wire16_eq, parsePair, hvalue, hextract, hcheck]

theorem parseQuad_wire32 {v : Nat} (hv : v < 2 ^ 32) : parseQuad (wire32 v) = .ok v := by
  rw [wire32, parseQuad]
  simp only [toByte_toNat (octetOf_lt v _), be32_octetOf hv]

end Sys2Proof.Machine
end

section
/-! SUPPORT. The scan of the text of an address: the digits of an octet, the period that closes it, and
the last octet at the end (`44_address.md` R404, R405, R410 to R413). -/

namespace Sys2Proof.Machine

/-- The scan at the start of octet `k`, whatever the first digit of the octet before was. -/
def Scan.atOctet (k first : Nat) (octets : List Nat) : Scan :=
  { k := k, acc := 0, nd := 0, first := first, oct := octets }

theorem Scan.byte_digit (st : Scan) {d : Nat} (hd : d < 10) :
    st.byte (toByte (0x30 + d)) = .ok { st with
      first := if st.nd = 0 then d else st.first
      acc   := saturatingStep st.acc d
      nd    := st.nd + 1 } := by
  have hvalue : (toByte (0x30 + d)).toNat = 0x30 + d := toByte_toNat (by omega)
  rw [Scan.byte, hvalue, if_pos ⟨by omega, by omega⟩, Nat.add_sub_cancel_left]

/-- An octet is small enough for the digit run not to saturate (`44_address.md` R411). -/
theorem saturatingStep_of_lt {acc d : Nat} (h : acc * 10 + d < 256) :
    saturatingStep acc d = acc * 10 + d :=
  min_eq_left (by omega)

theorem Scan.run_firstDigit {d : Nat} (hd : d < 10) (k first : Nat) (octets : List Nat)
    (cs : List Byte) :
    Scan.run (Scan.atOctet k first octets) (toByte (0x30 + d) :: cs) =
      Scan.run { k := k, acc := d, nd := 1, first := d, oct := octets } cs := by
  have hacc : saturatingStep 0 d = d := by
    rw [saturatingStep_of_lt (by omega), Nat.zero_mul, Nat.zero_add]
  rw [Scan.run_cons, Scan.byte_digit _ hd, Scan.atOctet, hacc]
  rfl

theorem Scan.run_laterDigit {acc d : Nat} (hd : d < 10) (hacc : acc * 10 + d < 256)
    (k nd first : Nat) (octets : List Nat) (cs : List Byte) :
    Scan.run { k := k, acc := acc, nd := nd + 1, first := first, oct := octets }
        (toByte (0x30 + d) :: cs) =
      Scan.run { k := k, acc := acc * 10 + d, nd := nd + 2, first := first, oct := octets } cs := by
  rw [Scan.run_cons, Scan.byte_digit _ hd, saturatingStep_of_lt hacc]
  rfl

/-- The digits of an octet leave its value, and a first digit that is 0 for the octet 0 alone. -/
theorem Scan.run_decimal {n : Nat} (hn : n < 256) (k first : Nat) (octets : List Nat)
    (cs : List Byte) :
    ∃ nd d, 1 ≤ nd ∧ (2 ≤ nd → d ≠ 0) ∧
      Scan.run (Scan.atOctet k first octets) (decimal n ++ cs) =
        Scan.run { k := k, acc := n, nd := nd, first := d, oct := octets } cs := by
  unfold decimal
  split_ifs with h10 h100
  · refine ⟨1, n, le_rfl, by omega, ?_⟩
    exact Scan.run_firstDigit h10 k first octets cs
  · have hvalue : n / 10 * 10 + n % 10 = n := by omega
    refine ⟨2, n / 10, by omega, by omega, ?_⟩
    simp only [List.cons_append, List.nil_append]
    rw [Scan.run_firstDigit (by omega), Scan.run_laterDigit (by omega) (by omega), hvalue]
  · have htens : n / 100 * 10 + n / 10 % 10 = n / 10 := by omega
    have hvalue : n / 10 * 10 + n % 10 = n := by omega
    refine ⟨3, n / 100, by omega, by omega, ?_⟩
    simp only [List.cons_append, List.nil_append]
    rw [Scan.run_firstDigit (by omega), Scan.run_laterDigit (by omega) (by omega), htens,
      Scan.run_laterDigit (by omega) (by omega), hvalue]

/-- `Close(k)` of a digit run that passes its three tests (`44_address.md` R412). -/
theorem Scan.close_ok {st : Scan} (hnd : 1 ≤ st.nd) (hacc : st.acc < 256)
    (hzero : 2 ≤ st.nd → st.first ≠ 0) : st.close = .ok { st with oct := st.oct ++ [st.acc] } := by
  rw [Scan.close, if_neg (by omega), if_neg (by omega), if_neg fun h => hzero h.1 h.2]

theorem Scan.byte_period {st st' : Scan} (h : st.close = .ok st') :
    st.byte 0x2E#8 = .ok (Scan.atOctet (st'.k + 1) st'.first st'.oct) := by
  rw [Scan.byte, if_neg (by decide), if_pos (by decide), h]
  rfl

/-- An octet that a period closes. -/
theorem Scan.run_octet {n : Nat} (hn : n < 256) (k first : Nat) (octets : List Nat)
    (cs : List Byte) :
    ∃ d, Scan.run (Scan.atOctet k first octets) (decimal n ++ 0x2E#8 :: cs) =
      Scan.run (Scan.atOctet (k + 1) d (octets ++ [n])) cs := by
  obtain ⟨nd, d, hnd, hzero, hrun⟩ := Scan.run_decimal hn k first octets (0x2E#8 :: cs)
  refine ⟨d, ?_⟩
  rw [hrun, Scan.run_cons, Scan.byte_period (Scan.close_ok hnd hn hzero)]
  rfl

/-- The octet that the end of the text closes (`44_address.md` R413). -/
theorem Scan.run_lastOctet {n : Nat} (hn : n < 256) (k first : Nat) (octets : List Nat) :
    ∃ st, Scan.run (Scan.atOctet k first octets) (decimal n) = .ok st ∧ st.oct = octets ++ [n] := by
  obtain ⟨nd, d, hnd, hzero, hrun⟩ := Scan.run_decimal hn k first octets []
  rw [List.append_nil] at hrun
  exact ⟨_, hrun.trans (Scan.close_ok hnd hn hzero), rfl⟩

theorem parseText_of_run {text : List Byte} {st : Scan} (h : Scan.run Scan.start text = .ok st) :
    parseText text = addressOfOctets st.oct := by
  cases text with
  | nil => cases h
  | cons c cs =>
    rw [parseText, h]
    rfl

/-- The dotted-decimal form of an address gives back the address (`44_address.md` R415). -/
theorem parseText_addressText {v : Nat} (hv : v < 2 ^ 32) : parseText (addressText v) = .ok v := by
  have hrun : ∃ st, Scan.run Scan.start (addressText v) = .ok st ∧
      st.oct = [octetOf v 24, octetOf v 16, octetOf v 8, octetOf v 0] := by
    simp only [addressText, List.append_assoc, List.singleton_append]
    obtain ⟨a, ha⟩ := Scan.run_octet (octetOf_lt v 24) 0 0 [] _
    obtain ⟨b, hb⟩ := Scan.run_octet (octetOf_lt v 16) 1 a [octetOf v 24] _
    obtain ⟨c, hc⟩ := Scan.run_octet (octetOf_lt v 8) 2 b [octetOf v 24, octetOf v 16] _
    obtain ⟨st, hst, hoct⟩ :=
      Scan.run_lastOctet (octetOf_lt v 0) 3 c [octetOf v 24, octetOf v 16, octetOf v 8]
    exact ⟨st, ha.trans (hb.trans (hc.trans hst)), hoct⟩
  obtain ⟨st, hst, hoct⟩ := hrun
  rw [parseText_of_run hst, hoct, addressOfOctets, be32_octetOf hv]

end Sys2Proof.Machine
end

section
/-! SUPPORT. Every serializing command with the parse of the same form. -/

namespace Sys2Proof.Claims

open Sys2Proof.Machine Sys2Proof.Laws

/-- The bytes `ser` offers parse to D0 by what `parse` computes from its view. -/
def ParsesBack (ser : Instr) (parse : Nat → Instr) : Prop :=
  appends ser = true ∧ ∃ P : List Byte → Except Raise Nat,
    (∀ u off, exec (parse off) u = .next (u.conclude (P (u.view off)))) ∧
    ∀ s L, output ser s = .ok L → P L = .ok s.d0.toNat

theorem ParsesBack.succeeds {ser : Instr} {parse : Nat → Instr} (h : ParsesBack ser parse)
    {s t u : State} {off : Nat} (hok : s.config.ok = true) (hexec : exec ser s = .next t)
    (hstatus : t.status = 0#32) (hview : u.view off = appended s t) :
    Succeeds (parse off) u s.d0.toNat := by
  obtain ⟨happ, P, hparse, hback⟩ := h
  have hvalue : P (u.view off) = .ok s.d0.toNat :=
    hview ▸ hback s _ (output_eq_appended happ hok hexec hstatus)
  exact succeeds_of_conclude (hparse u off) hvalue

/-- What a command makes of the validated D0, once the validation passes. -/
theorem validated_map_ok {α : Type} {s : State} {f : Field} {g : Nat → α} {y : α}
    (h : (s.validated f).map g = .ok y) :
    y = g s.d0.toNat ∧ s.d0.toNat < 2 ^ f.storageWidth ∧ f.check s.d0.toNat = .ok s.d0.toNat := by
  cases hvalid : s.validated f with
  | error r =>
    rw [hvalid] at h
    cases h
  | ok v =>
    rw [hvalid] at h
    cases h
    obtain ⟨rfl, hlt, hcheck⟩ := State.validated_ok hvalid
    exact ⟨rfl, hlt, hcheck⟩

/-- A `_SER` command and a parse that undoes the wire form of its field. -/
theorem parsesBack_of_wire {ser : Instr} {parse : Nat → Instr} {P : List Byte → Except Raise Nat}
    (f : Field) (happ : appends ser = true)
    (hser : ∀ s, output ser s = (s.validated f).map f.wire)
    (hparse : ∀ u off, exec (parse off) u = .next (u.conclude (P (u.view off))))
    (hback : ∀ v, v < 2 ^ f.storageWidth → f.check v = .ok v → P (f.wire v) = .ok v) :
    ParsesBack ser parse := by
  refine ⟨happ, P, hparse, fun s L hL => ?_⟩
  rw [hser] at hL
  obtain ⟨rfl, hlt, hcheck⟩ := validated_map_ok hL
  exact hback _ hlt hcheck

section Field

variable {ser : Instr} {parse : Nat → Instr} (f : Field) (happ : appends ser = true)
  (hser : ∀ s, output ser s = (s.validated f).map f.wire)
include happ hser

theorem parsesBack_byte (hwidth : f.storageWidth = 8)
    (hparse : ∀ u off, exec (parse off) u = .next (u.parseByteCommand f off)) :
    ParsesBack ser parse :=
  parsesBack_of_wire f happ hser hparse fun _ hv => parseByte_wire hwidth (by rwa [hwidth] at hv)

theorem parsesBack_pair (hwidth : f.storageWidth = 16)
    (hparse : ∀ u off, exec (parse off) u = .next (u.parsePairCommand f off)) :
    ParsesBack ser parse :=
  parsesBack_of_wire f happ hser hparse fun _ hv => parsePair_wire hwidth (by rwa [hwidth] at hv)

end Field

theorem parsesBack_addrBin : ParsesBack .addrSerBin .addrParseBin :=
  parsesBack_of_wire .addr rfl (fun _ => rfl) (fun _ _ => rfl) fun _ hv _ => parseQuad_wire32 hv

theorem parsesBack_addrText : ParsesBack .addrFormatText .addrParseText := by
  refine ⟨rfl, parseText, fun _ _ => rfl, fun s L hL => ?_⟩
  rw [output, State.operand_addr] at hL
  cases hL
  exact parseText_addressText s.d0.isLt

theorem parsesBack_of_mem : ∀ p ∈ inversePairs, ParsesBack p.1 p.2 := by
  simp only [inversePairs, List.forall_mem_cons, List.not_mem_nil]
  refine ⟨?_, ?_, ?_, ?_, ?_, ?_, ?_, ?_, ?_, ?_, ?_, parsesBack_addrBin, parsesBack_addrText,
    nofun⟩
  · exact parsesBack_byte .version rfl (fun _ => rfl) rfl fun _ _ => rfl
  · exact parsesBack_byte .ihl rfl (fun _ => rfl) rfl fun _ _ => rfl
  · exact parsesBack_byte .prec rfl (fun _ => rfl) rfl fun _ _ => rfl
  · exact parsesBack_pair .tlen rfl (fun _ => rfl) rfl fun _ _ => rfl
  · exact parsesBack_byte .flags rfl (fun _ => rfl) rfl fun _ _ => rfl
  · exact parsesBack_pair .foff rfl (fun _ => rfl) rfl fun _ _ => rfl
  · exact parsesBack_byte .tos rfl (fun _ => rfl) rfl fun _ _ => rfl
  · exact parsesBack_byte .ttl rfl (fun _ => rfl) rfl fun _ _ => rfl
  · exact parsesBack_byte .proto rfl (fun _ => rfl) rfl fun _ _ => rfl
  · exact parsesBack_pair .ident rfl (fun _ => rfl) rfl fun _ _ => rfl
  · exact parsesBack_pair .hcsum rfl (fun _ => rfl) rfl fun _ _ => rfl

/-- Settles O57: a serialize that reports OK has appended all it offered, and each of the thirteen
parses undoes its wire form. -/
theorem parseInvertsSerialize : Obligations.ParseInvertsSerialize :=
  fun p hp _ _ _ _ hok hexec hstatus hview =>
    (parsesBack_of_mem p hp).succeeds hok hexec hstatus hview

end Sys2Proof.Claims
end

section
/-! SUPPORT. The words of a command of format N and of format V (`30_encoding.md` R101, R102). -/

namespace Sys2Proof

open Sys2Proof.Claims

theorem decode_eq_ok_iff_encode {w : Word} {i : Instr} :
    decode w = .ok i ↔ i.wellFormed = true ∧ encode i = w :=
  ⟨encodeOfDecodeIsIdentity w i, fun ⟨hwf, hw⟩ => hw ▸ decodeOfEncodeIsIdentity i hwf⟩

theorem encodedN_of_hasFields {i : Instr} {op : Nat} (h : i.HasFields op 0#24) :
    EncodedN i op := by
  intro w
  obtain ⟨hwf, hop, himm⟩ := h
  rw [decode_eq_ok_iff_encode, ← BitVec.toNat_inj, encode_toNat, hop, himm]
  simp only [hwf, true_and, BitVec.toNat_ofNat, Nat.zero_mod, Nat.add_zero]
  exact eq_comm

/-- The commands of a format V row: OFF is the operand, whole in IMM. -/
def HasViewFields (i : Nat → Instr) (op : Nat) : Prop :=
  ∀ off, (i off).wellFormed = decide (off < 65536) ∧ (i off).opcode.toNat = op ∧
    (i off).imm = BitVec.ofNat 24 off

theorem encodedV_of_hasViewFields {i : Nat → Instr} {op : Nat} (h : HasViewFields i op) :
    EncodedV i op := by
  intro w off
  obtain ⟨hwf, hop, himm⟩ := h off
  rw [decode_eq_ok_iff_encode, ← BitVec.toNat_inj, encode_toNat, hwf, hop, himm,
    decide_eq_true_iff, BitVec.toNat_ofNat]
  refine and_congr_right fun hoff => ?_
  rw [Nat.mod_eq_of_lt (by omega)]
  exact eq_comm

end Sys2Proof
end

section
/-! SUPPORT. The three shapes of a field's commands, each from what the field's check does and how the
field stands in its bytes (`41_validated_fields.md` R200 to R202). -/

namespace Sys2Proof.Claims

open Sys2Proof.Machine Sys2Proof.Laws

/-! ### `_RAW` and `_SER`: the value of D0 -/

theorem validated_tooWide {s : State} {f : Field} (h : 2 ^ f.storageWidth ≤ s.d0.toNat) :
    s.validated f = .error ⟨.operandTooWide, s.d0.toNat, 0⟩ := by
  rw [State.validated, State.operand, if_pos h]

theorem validated_fits {s : State} {f : Field} (h : s.d0.toNat < 2 ^ f.storageWidth) :
    s.validated f = f.check s.d0.toNat := by
  rw [State.validated, State.operand, if_neg h.not_ge]

section Operand

variable {i : Instr} {op : Nat} {legal : Nat → Prop} {errorOf : Nat → Nat} (f : Field)
  (hcheck : ∀ v, f.ChecksAs legal errorOf v)
include hcheck

/-- A command that validates D0 and answers a function of it. -/
theorem outcome_of_validated {s : State} {g : Nat → Nat}
    (hexec : exec i s = .next (s.conclude ((s.validated f).map g))) :
    (2 ^ f.storageWidth ≤ s.d0.toNat → Raises i s 11 s.d0.toNat 0) ∧
    (s.d0.toNat < 2 ^ f.storageWidth → legal s.d0.toNat → Succeeds i s (g s.d0.toNat)) ∧
    (s.d0.toNat < 2 ^ f.storageWidth → ¬ legal s.d0.toNat →
      Raises i s (errorOf s.d0.toNat) s.d0.toNat 0) := by
  refine ⟨fun hwide => ?_, fun hfits hlegal => ?_, fun hfits hillegal => ?_⟩
  · exact raises_of_conclude (c := .operandTooWide) hexec (by rw [validated_tooWide hwide]; rfl)
  · exact succeeds_of_conclude hexec
      (by rw [validated_fits hfits, (hcheck _).accepts hlegal]; rfl)
  · obtain ⟨c, hc, hraise⟩ := (hcheck _).rejects hillegal
    exact hc ▸ raises_of_conclude hexec (by rw [validated_fits hfits, hraise]; rfl)

theorem rawCommand_of_field (hword : i.HasFields op 0#24)
    (hexec : ∀ s, exec i s = .next (s.rawCommand f)) :
    RawCommand i op f.storageWidth legal errorOf :=
  ⟨encodedN_of_hasFields hword, fun s => outcome_of_validated f hcheck (g := id)
    (by rw [hexec, State.rawCommand, Except.map_id, id])⟩

theorem serCommand_of_field {bytes : Nat → List Byte} (hword : i.HasFields op 0#24)
    (hexec : ∀ s, exec i s = .next (s.serCommand f)) (hwire : ∀ v, f.wire v = bytes v) :
    SerCommand i op f.storageWidth legal errorOf bytes := by
  refine ⟨encodedN_of_hasFields hword, fun s hok => ?_⟩
  have hbytes : s.d0.toNat < 2 ^ f.storageWidth → legal s.d0.toNat →
      (s.validated f).map f.wire = .ok (bytes s.d0.toNat) := fun hfits hlegal => by
    rw [validated_fits hfits, (hcheck _).accepts hlegal, ← hwire]
    rfl
  refine ⟨fun hwide => ?_, fun hfits hillegal => ?_, fun hfits hlegal hroom => ?_,
    fun hfits hlegal hfull => ?_⟩
  · exact raises_of_emit (c := .operandTooWide) (hexec s) (by rw [validated_tooWide hwide]; rfl)
  · obtain ⟨c, hc, hraise⟩ := (hcheck _).rejects hillegal
    exact hc ▸ raises_of_emit (hexec s) (by rw [validated_fits hfits, hraise]; rfl)
  · exact emits_of_emit (hexec s) (hbytes hfits hlegal) hok hroom
  · exact raises_of_emit_full (hexec s) (hbytes hfits hlegal) hfull

end Operand

/-! ### `_PARSE`: the first bytes of the view -/

theorem view_eq_nil {s : State} {off : Nat} (h : s.ilen.toNat ≤ off) : s.view off = [] :=
  List.eq_nil_of_length_eq_zero ((s.view_length off).trans (Nat.sub_eq_zero_of_le h))

theorem view_eq_cons {s : State} {off : Nat} (h : off < s.ilen.toNat) :
    s.view off = s.ibufByte off :: s.view (off + 1) := by
  refine List.ext_getElem (by simp; omega) fun j hj hj' => ?_
  rw [s.view_getElem]
  cases j with
  | zero => rfl
  | succ j => rw [List.getElem_cons_succ, s.view_getElem, Nat.add_assoc, Nat.add_comm 1 j]

/-- A command that concludes with the check of `v`. -/
theorem outcome_of_check {i : Instr} {s : State} {f : Field} {legal : Nat → Prop}
    {errorOf : Nat → Nat} {v : Nat} (hcheck : f.ChecksAs legal errorOf v)
    (hexec : exec i s = .next (s.conclude (f.check v))) :
    (legal v → Succeeds i s v) ∧ (¬ legal v → Raises i s (errorOf v) v 0) := by
  refine ⟨fun hlegal => succeeds_of_conclude hexec (hcheck.accepts hlegal), fun hillegal => ?_⟩
  obtain ⟨c, hc, hraise⟩ := hcheck.rejects hillegal
  exact hc ▸ raises_of_conclude hexec hraise

section Parse

variable {i : Nat → Instr} {op : Nat} {extract : Nat → Nat} {legal : Nat → Prop}
  {errorOf : Nat → Nat} (f : Field)

theorem parseByteCommand_of_field (hword : HasViewFields i op)
    (hexec : ∀ off s, exec (i off) s = .next (s.parseByteCommand f off))
    (hextract : ∀ n, f.extract n = extract n)
    (hcheck : ∀ n < 256, f.ChecksAs legal errorOf (extract n)) :
    ParseByteCommand i op extract legal errorOf := by
  refine ⟨encodedV_of_hasViewFields hword, fun s off => ⟨fun hempty => ?_, fun hone => ?_⟩⟩
  · exact raises_of_conclude (c := .empty) (hexec off s) (by rw [view_eq_nil hempty, parseByte])
  · refine outcome_of_check (hcheck _ (s.ibufByte off).isLt) ?_
    rw [hexec, State.parseByteCommand, view_eq_cons hone, parseByte, hextract]

theorem parsePairCommand_of_field (hword : HasViewFields i op)
    (hexec : ∀ off s, exec (i off) s = .next (s.parsePairCommand f off))
    (hextract : ∀ n, f.extract n = extract n)
    (hcheck : ∀ n, f.ChecksAs legal errorOf (extract n)) :
    ParsePairCommand i op extract legal errorOf := by
  refine ⟨encodedV_of_hasViewFields hword, fun s off =>
    ⟨fun hempty => ?_, fun hone => ?_, fun htwo => ?_⟩⟩
  · exact raises_of_conclude (c := .empty) (hexec off s) (by rw [view_eq_nil hempty, parsePair])
  · refine raises_of_conclude (c := .insufficientBytes) (hexec off s) ?_
    rw [view_eq_cons (by omega), view_eq_nil (by omega), parsePair]
  · refine outcome_of_check (hcheck _) ?_
    rw [hexec, State.parsePairCommand, view_eq_cons (by omega), view_eq_cons (by omega), parsePair,
      hextract, be16_eq]

end Parse

end Sys2Proof.Claims
end

section
/-! SUPPORT. The fields whose check can fail, one statement per field (`41_validated_fields.md`): each is
its check and its place in its bytes. -/

namespace Sys2Proof.Claims

open Sys2Proof.Machine Sys2Proof.Laws

theorem wire_shifted (v k : Nat) : [toByte (v <<< k)] = [BitVec.ofNat 8 (v * 2 ^ k)] := by
  rw [toByte, Nat.shiftLeft_eq]

/-- Settles O29: a nibble of a byte is at most 15, so the parse rejects no value. -/
theorem versionCommands : Obligations.VersionCommands := by
  refine ⟨?_, ?_, ?_⟩
  · exact rawCommand_of_field .version checksAs_version ⟨rfl, rfl, rfl⟩ fun _ => rfl
  · refine parseByteCommand_of_field .version (fun _ => ⟨rfl, rfl, rfl⟩) (fun _ _ => rfl)
      (fun n => n.shiftRight_eq_div_pow 4) fun n hn => ?_
    have hnibble : n / 16 ≤ 15 := by omega
    exact (checksAs_version _).of_legal hnibble _
  · exact serCommand_of_field .version checksAs_version ⟨rfl, rfl, rfl⟩ (fun _ => rfl)
      fun v => wire_shifted v 4

/-- Settles O30: the low nibble of a byte is at most 15, so the parse can only find it too small. -/
theorem ihlCommands : Obligations.IhlCommands := by
  refine ⟨?_, ?_, ?_⟩
  · exact rawCommand_of_field .ihl checksAs_ihl ⟨rfl, rfl, rfl⟩ fun _ => rfl
  · refine parseByteCommand_of_field .ihl (fun _ => ⟨rfl, rfl, rfl⟩) (fun _ _ => rfl)
      (fun n => Nat.and_two_pow_sub_one_eq_mod n 4) fun n _ => ?_
    have hnibble : n % 16 ≤ 15 := by omega
    refine (checksAs_ihl _).of_agree (and_iff_left hnibble).symm fun hillegal => ?_
    exact (if_pos (by omega)).symm
  · exact serCommand_of_field .ihl checksAs_ihl ⟨rfl, rfl, rfl⟩ (fun _ => rfl) fun _ => rfl

/-- Settles O33: three bits of a byte are at most 7, so the parse rejects no value. -/
theorem precedenceCommands : Obligations.PrecedenceCommands := by
  refine ⟨?_, ?_, ?_⟩
  · exact rawCommand_of_field .prec checksAs_prec ⟨rfl, rfl, rfl⟩ fun _ => rfl
  · refine parseByteCommand_of_field .prec (fun _ => ⟨rfl, rfl, rfl⟩) (fun _ _ => rfl)
      (fun n => n.shiftRight_eq_div_pow 5) fun n hn => ?_
    have hbits : n / 32 ≤ 7 := by omega
    exact (checksAs_prec _).of_legal hbits _
  · exact serCommand_of_field .prec checksAs_prec ⟨rfl, rfl, rfl⟩ (fun _ => rfl)
      fun v => wire_shifted v 5

/-- Settles O34: the value is both bytes, and the check is the same after a parse. -/
theorem totalLengthCommands : Obligations.TotalLengthCommands := by
  refine ⟨?_, ?_, ?_⟩
  · exact rawCommand_of_field .tlen checksAs_tlen ⟨rfl, rfl, rfl⟩ fun _ => rfl
  · exact parsePairCommand_of_field .tlen (fun _ => ⟨rfl, rfl, rfl⟩) (fun _ _ => rfl)
      (fun _ => rfl) checksAs_tlen
  · exact serCommand_of_field .tlen checksAs_tlen ⟨rfl, rfl, rfl⟩ (fun _ => rfl) wire16_eq

/-- Settles O35: three bits of a byte are at most 7, so the parse can only find the reserved bit. -/
theorem flagsCommands : Obligations.FlagsCommands := by
  refine ⟨?_, ?_, ?_⟩
  · exact rawCommand_of_field .flags checksAs_flags ⟨rfl, rfl, rfl⟩ fun _ => rfl
  · refine parseByteCommand_of_field .flags (fun _ => ⟨rfl, rfl, rfl⟩) (fun _ _ => rfl)
      (fun n => n.shiftRight_eq_div_pow 5) fun n hn => ?_
    have hbits : ¬ 7 < n / 32 := by omega
    exact (checksAs_flags _).of_agree Iff.rfl fun _ => (if_neg hbits).symm
  · exact serCommand_of_field .flags checksAs_flags ⟨rfl, rfl, rfl⟩ (fun _ => rfl)
      fun v => wire_shifted v 5

/-- Settles O36: thirteen bits are at most 8191, so the parse rejects no value. -/
theorem fragmentOffsetCommands : Obligations.FragmentOffsetCommands := by
  refine ⟨?_, ?_, ?_⟩
  · exact rawCommand_of_field .foff checksAs_foff ⟨rfl, rfl, rfl⟩ fun _ => rfl
  · refine parsePairCommand_of_field .foff (fun _ => ⟨rfl, rfl, rfl⟩) (fun _ _ => rfl)
      (fun n => Nat.and_two_pow_sub_one_eq_mod n 13) fun n => ?_
    have hbits : n % 8192 ≤ 8191 := by omega
    exact (checksAs_foff _).of_legal hbits _
  · exact serCommand_of_field .foff checksAs_foff ⟨rfl, rfl, rfl⟩ (fun _ => rfl) wire16_eq

/-- Settles O37: the value is the whole byte, and the check is the same after a parse. -/
theorem typeOfServiceCommands : Obligations.TypeOfServiceCommands := by
  refine ⟨?_, ?_, ?_⟩
  · exact rawCommand_of_field .tos checksAs_tos ⟨rfl, rfl, rfl⟩ fun _ => rfl
  · exact parseByteCommand_of_field .tos (fun _ => ⟨rfl, rfl, rfl⟩) (fun _ _ => rfl)
      (fun _ => rfl) fun n _ => checksAs_tos n
  · exact serCommand_of_field .tos checksAs_tos ⟨rfl, rfl, rfl⟩ (fun _ => rfl) fun _ => rfl

/-! ### The lengths of the header (`41_validated_fields.md` R218 to R220) -/

/-- IHL_BYTELEN and IHL_OPTLEN raise what IHL_RAW raises, and answer a function of a legal IHL. -/
theorem ihlLength_outcome {i : Instr} {s : State} {g : Nat → Nat}
    (hexec : exec i s = .next (s.conclude ((s.validated .ihl).map g))) :
    ((256 ≤ s.d0.toNat → Raises i s 11 s.d0.toNat 0) ∧
      (s.d0.toNat < 5 → Raises i s 3 s.d0.toNat 0) ∧
      (16 ≤ s.d0.toNat → s.d0.toNat < 256 → Raises i s 5 s.d0.toNat 0)) ∧
    (5 ≤ s.d0.toNat → s.d0.toNat ≤ 15 → Succeeds i s (g s.d0.toNat)) := by
  obtain ⟨hwide, hlegal, hillegal⟩ := outcome_of_validated .ihl checksAs_ihl hexec
  refine ⟨⟨hwide, fun hsmall => ?_, fun hlarge hfits => ?_⟩, fun h5 h15 => ?_⟩
  · have hraise := hillegal (hsmall.trans (by decide)) fun h => hsmall.not_ge h.1
    rwa [if_pos hsmall] at hraise
  · have hraise := hillegal hfits (by omega)
    rwa [if_neg (by omega)] at hraise
  · exact hlegal (h15.trans_lt (by decide)) ⟨h5, h15⟩

theorem ihlOfByteLength_ok {n : Nat} (h : n % 4 = 0 ∧ 20 ≤ n ∧ n ≤ 60) :
    ihlOfByteLength n = .ok (n / 4) := if_neg (by omega)

theorem ihlOfByteLength_none {n : Nat} (h : ¬ (n % 4 = 0 ∧ 20 ≤ n ∧ n ≤ 60)) :
    ihlOfByteLength n = .error ⟨.noValue, n, 0⟩ := if_pos (by omega)

/-- Settles O31: both lengths of an IHL have one outcome lemma, and the way back reads D0 whole. -/
theorem ihlLengthCommands : Obligations.IhlLengthCommands := by
  refine ⟨encodedN_of_hasFields ⟨rfl, rfl, rfl⟩, encodedN_of_hasFields ⟨rfl, rfl, rfl⟩,
    encodedN_of_hasFields ⟨rfl, rfl, rfl⟩, fun s => ?_⟩
  obtain ⟨hbyteErrors, hbyteLen⟩ := ihlLength_outcome (i := .ihlBytelen) (s := s) rfl
  obtain ⟨hoptErrors, hoptLen⟩ := ihlLength_outcome (i := .ihlOptlen) (s := s) rfl
  refine ⟨?_, fun h5 h15 => ⟨hbyteLen h5 h15, hoptLen h5 h15⟩, fun h => ?_, fun h => ?_⟩
  · simpa only [List.forall_mem_cons, List.not_mem_nil] using ⟨hbyteErrors, hoptErrors, nofun⟩
  · exact succeeds_of_conclude rfl (ihlOfByteLength_ok h)
  · exact raises_of_conclude (c := .noValue) rfl (ihlOfByteLength_none h)

/-- A command that reports OK concluded with a value. -/
theorem exists_ok_of_status {i : Instr} {s t : State} {x : Except Raise Nat} {n : Nat}
    (h : exec i s = .next (s.conclude x)) (hx : RaisesWithin n x) (hexec : exec i s = .next t)
    (hstatus : t.status = 0#32) : ∃ v, x = .ok v ∧ t = s.succeed v := by
  cases h.symm.trans hexec
  cases x with
  | ok v => exact ⟨v, rfl, rfl⟩
  | error r => exact absurd ((statusWord_eq_zero_iff _).1 hstatus) (hx r rfl).notOk

/-- Settles O32: a legal IHL is 5 to 15, so four times it is a header length. -/
theorem byteLengthGivesBackTheIhl : Obligations.ByteLengthGivesBackTheIhl := by
  intro s t u hexec hstatus hd0
  obtain ⟨n, hn, rfl⟩ := exists_ok_of_status rfl ((s.validated_raises .ihl 0).map ihlByteLength)
    hexec hstatus
  obtain ⟨rfl, -, hcheck⟩ := validated_map_ok hn
  obtain ⟨h5, h15⟩ := (checksAs_ihl _).legal_of_ok hcheck
  have hlength : u.d0.toNat = s.d0.toNat * 4 := by
    rw [hd0, State.succeed_dout, ihlByteLength, BitVec.toNat_ofNat]
    exact Nat.mod_eq_of_lt (by omega)
  have hback : u.d0.toNat / 4 = s.d0.toNat := by omega
  exact hback ▸ succeeds_of_conclude rfl (ihlOfByteLength_ok (by omega))

end Sys2Proof.Claims
end

section
/-! SUPPORT. The fields whose check accepts every value of their width (`42_unvalidated_fields.md`), in
one byte or in two, and the two commands that read a TTL. -/

namespace Sys2Proof.Claims

open Sys2Proof.Machine Sys2Proof.Laws

/-! ### The three commands of an unvalidated field (`42_unvalidated_fields.md` R300) -/

/-- Of a field whose check never fails, every value is legal. -/
theorem checksAs_free {f : Field} (hfree : ∀ v, f.check v = .ok v) (v : Nat) :
    f.ChecksAs (fun _ => True) (fun _ => 0) v where
  accepts _ := hfree v
  rejects hillegal := absurd trivial hillegal

section Unvalidated

variable {raw ser : Instr} {parse : Nat → Instr} {op : Nat} (f : Field)
  (hfree : ∀ v, f.check v = .ok v) (hextract : ∀ n, f.extract n = n)
  (hraw : raw.HasFields op 0#24 ∧ ∀ s, exec raw s = .next (s.rawCommand f))
  (hser : ser.HasFields (op + 2) 0#24 ∧ ∀ s, exec ser s = .next (s.serCommand f))
include hfree hextract hraw hser

/-- An unvalidated field that is one whole byte; its three opcodes are consecutive. -/
theorem byteCommands_of_unvalidated (hwire : ∀ v, f.wire v = [toByte v])
    (hparse : HasViewFields parse (op + 1) ∧
      ∀ off s, exec (parse off) s = .next (s.parseByteCommand f off)) :
    RawCommand raw op f.storageWidth (fun _ => True) (fun _ => 0) ∧
    ParseByteCommand parse (op + 1) (fun v => v) (fun _ => True) (fun _ => 0) ∧
    SerCommand ser (op + 2) f.storageWidth (fun _ => True) (fun _ => 0)
      (fun v => [BitVec.ofNat 8 v]) := by
  obtain ⟨hrawWord, hrawExec⟩ := hraw
  obtain ⟨hserWord, hserExec⟩ := hser
  obtain ⟨hparseWord, hparseExec⟩ := hparse
  refine ⟨?_, ?_, ?_⟩
  · exact rawCommand_of_field f (checksAs_free hfree) hrawWord hrawExec
  · exact parseByteCommand_of_field f hparseWord hparseExec hextract fun n _ => checksAs_free hfree n
  · exact serCommand_of_field f (checksAs_free hfree) hserWord hserExec hwire

/-- An unvalidated field that is two whole bytes, big-endian. -/
theorem pairCommands_of_unvalidated (hwire : ∀ v, f.wire v = wire16 v)
    (hparse : HasViewFields parse (op + 1) ∧
      ∀ off s, exec (parse off) s = .next (s.parsePairCommand f off)) :
    RawCommand raw op f.storageWidth (fun _ => True) (fun _ => 0) ∧
    ParsePairCommand parse (op + 1) (fun v => v) (fun _ => True) (fun _ => 0) ∧
    SerCommand ser (op + 2) f.storageWidth (fun _ => True) (fun _ => 0) bigEndian16 := by
  obtain ⟨hrawWord, hrawExec⟩ := hraw
  obtain ⟨hserWord, hserExec⟩ := hser
  obtain ⟨hparseWord, hparseExec⟩ := hparse
  refine ⟨?_, ?_, ?_⟩
  · exact rawCommand_of_field f (checksAs_free hfree) hrawWord hrawExec
  · exact parsePairCommand_of_field f hparseWord hparseExec hextract (checksAs_free hfree)
  · exact serCommand_of_field f (checksAs_free hfree) hserWord hserExec
      fun v => (hwire v).trans (wire16_eq v)

end Unvalidated

/-- Settles O38: TTL is one whole byte, and its check accepts all 256 values. -/
theorem ttlFieldCommands : Obligations.TtlFieldCommands :=
  byteCommands_of_unvalidated .ttl (fun _ => rfl) (fun _ => rfl)
    ⟨⟨rfl, rfl, rfl⟩, fun _ => rfl⟩ ⟨⟨rfl, rfl, rfl⟩, fun _ => rfl⟩ (fun _ => rfl)
    ⟨fun _ => ⟨rfl, rfl, rfl⟩, fun _ _ => rfl⟩

/-- Settles O41: Protocol is one whole byte, and its check accepts all 256 values. -/
theorem protocolCommands : Obligations.ProtocolCommands :=
  byteCommands_of_unvalidated .proto (fun _ => rfl) (fun _ => rfl)
    ⟨⟨rfl, rfl, rfl⟩, fun _ => rfl⟩ ⟨⟨rfl, rfl, rfl⟩, fun _ => rfl⟩ (fun _ => rfl)
    ⟨fun _ => ⟨rfl, rfl, rfl⟩, fun _ _ => rfl⟩

/-- Settles O42: Identification is two whole bytes, and its check accepts all 65536 values. -/
theorem identificationCommands : Obligations.IdentificationCommands :=
  pairCommands_of_unvalidated .ident (fun _ => rfl) (fun _ => rfl)
    ⟨⟨rfl, rfl, rfl⟩, fun _ => rfl⟩ ⟨⟨rfl, rfl, rfl⟩, fun _ => rfl⟩ (fun _ => rfl)
    ⟨fun _ => ⟨rfl, rfl, rfl⟩, fun _ _ => rfl⟩

/-- Settles O43: HeaderChecksum is two whole bytes, and its check accepts all 65536 values. -/
theorem headerChecksumFieldCommands : Obligations.HeaderChecksumFieldCommands :=
  pairCommands_of_unvalidated .hcsum (fun _ => rfl) (fun _ => rfl)
    ⟨⟨rfl, rfl, rfl⟩, fun _ => rfl⟩ ⟨⟨rfl, rfl, rfl⟩, fun _ => rfl⟩ (fun _ => rfl)
    ⟨fun _ => ⟨rfl, rfl, rfl⟩, fun _ _ => rfl⟩

/-! ### Expiry and decrement (`42_unvalidated_fields.md` R304, R305) -/

theorem operand_tooWide {s : State} {f : Field} (h : 2 ^ f.storageWidth ≤ s.d0.toNat) :
    s.operand f = .error ⟨.operandTooWide, s.d0.toNat, 0⟩ := if_pos h

theorem operand_fits {s : State} {f : Field} (h : s.d0.toNat < 2 ^ f.storageWidth) :
    s.operand f = .ok s.d0.toNat := if_neg h.not_ge

theorem ttlDecrement_zero : ttlDecrement 0 = .error ⟨.noValue, 0, 0⟩ := rfl

theorem ttlDecrement_pos {v : Nat} (h : 1 ≤ v) : ttlDecrement v = .ok (v - 1) := if_neg (by omega)

/-- `TTL_EXPIRED` of a TTL in range answers whether it is 0. -/
theorem ttlExpired_succeeds {s : State} (h : s.d0.toNat < 256) :
    Succeeds .ttlExpired s (if s.d0.toNat = 0 then 1 else 0) :=
  succeeds_of_conclude rfl (by rw [operand_fits h, Except.map])

theorem ttlDec_succeeds {s : State} (hpos : 1 ≤ s.d0.toNat) (h : s.d0.toNat < 256) :
    Succeeds .ttlDec s (s.d0.toNat - 1) :=
  succeeds_of_conclude rfl (by rw [operand_fits h, Except.bind, ttlDecrement_pos hpos])

theorem ttlDec_noValue {s : State} (hzero : s.d0.toNat = 0) : Raises .ttlDec s 10 0 0 := by
  have hfits : s.d0.toNat < 256 := by omega
  refine raises_of_conclude (c := .noValue) rfl ?_
  rw [operand_fits hfits, Except.bind, hzero, ttlDecrement_zero]

/-- Settles O39: both commands fetch a TTL, and differ at 0. -/
theorem ttlExpiryAndDecrement : Obligations.TtlExpiryAndDecrement := by
  refine ⟨encodedN_of_hasFields ⟨rfl, rfl, rfl⟩, encodedN_of_hasFields ⟨rfl, rfl, rfl⟩,
    fun s => ⟨fun hwide => ?_, fun hzero => ?_, fun hpos hfits => ?_⟩⟩
  · have hfetch : s.operand .ttl = .error ⟨.operandTooWide, s.d0.toNat, 0⟩ := operand_tooWide hwide
    exact ⟨raises_of_conclude (c := .operandTooWide) rfl (by rw [hfetch, Except.map]),
      raises_of_conclude (c := .operandTooWide) rfl (by rw [hfetch, Except.bind])⟩
  · have hexpired := ttlExpired_succeeds (s := s) (by omega)
    rw [if_pos hzero] at hexpired
    exact ⟨hexpired, ttlDec_noValue hzero⟩
  · have hexpired := ttlExpired_succeeds hfits
    rw [if_neg (by omega)] at hexpired
    exact ⟨hexpired, ttlDec_succeeds hpos hfits⟩

/-! ### The chain of decrements (`42_unvalidated_fields.md` R325) -/

/-- One more decrement, with the host's write of DOUT into D0. -/
theorem decrementTimes_succ {k : Nat} {s t u : State} (hchain : decrementTimes k s = .next t)
    (hexec : exec .ttlDec t = .next u) :
    decrementTimes (k + 1) s = .next { u with d0 := u.dout } := by
  simp only [decrementTimes, hchain, hexec]

/-- While k does not exceed the TTL, k decrements leave D0 smaller by k, each one a success. -/
theorem decrementTimes_d0 {s : State} (hfits : s.d0.toNat < 256) {k : Nat} (hk : k ≤ s.d0.toNat) :
    ∃ t, decrementTimes k s = .next t ∧ t.d0.toNat = s.d0.toNat - k ∧
      (1 ≤ k → t.status = 0#32 ∧ t.d0 = t.dout) := by
  induction k with
  | zero => exact ⟨s, rfl, rfl, fun h => absurd h (by decide)⟩
  | succ k ih =>
    obtain ⟨t, hchain, hd0, -⟩ := ih (by omega)
    have hdec : Succeeds .ttlDec t (t.d0.toNat - 1) := ttlDec_succeeds (by omega) (by omega)
    refine ⟨_, decrementTimes_succ hchain hdec, ?_, fun _ => ⟨rfl, rfl⟩⟩
    calc (BitVec.ofNat 32 (t.d0.toNat - 1)).toNat
      _ = t.d0.toNat - 1 := (BitVec.toNat_ofNat ..).trans (Nat.mod_eq_of_lt (by omega))
      _ = s.d0.toNat - (k + 1) := by omega

/-- Settles O40: after as many decrements as the TTL, D0 is 0 and the next one raises NO_VALUE. -/
theorem ttlDecrementChain : Obligations.TtlDecrementChain := by
  refine fun s hfits => ⟨fun k hpos hk => ?_, ?_⟩
  · obtain ⟨t, hchain, hd0, hlast⟩ := decrementTimes_d0 hfits hk
    obtain ⟨hstatus, hback⟩ := hlast hpos
    exact ⟨t, hchain, hstatus, hback ▸ hd0, hback⟩
  · obtain ⟨t, hchain, hd0, -⟩ := decrementTimes_d0 hfits le_rfl
    have hzero : t.d0.toNat = 0 := hd0.trans (Nat.sub_self _)
    exact ⟨_, decrementTimes_succ hchain (ttlDec_noValue hzero), rfl, rfl⟩

end Sys2Proof.Claims
end

section
/-! SUPPORT. The components of TypeOfService and Flags: the value they pack into, the lanes they stand
in, and the two directions between them (`43_composition.md` R350 to R354). -/

namespace Sys2Proof.Machine

theorem bitOf_eq_testBit (v i : Nat) : bitOf v i = (v.testBit i).toNat := by
  rw [bitOf, Nat.and_one_is_mod, Nat.shiftRight_eq_div_pow, Nat.toNat_testBit]

/-! ### TypeOfService -/

theorem packTos_eq {prec : Nat} (h : prec < 8) (ld ht hr : Bool) :
    packTos prec ld ht hr = prec * 32 + ld.toNat * 16 + ht.toNat * 8 + hr.toNat * 4 := by
  decide +revert

/-- An unpack answers the lanes the pack command takes its components in. -/
theorem unpackTos_eq_tosLanes (v : Nat) :
    unpackTos v = tosLanes (v / 32) (v.testBit 4) (v.testBit 3) (v.testBit 2) := by
  rw [unpackTos, bitOf_eq_testBit, bitOf_eq_testBit, bitOf_eq_testBit, Nat.shiftRight_eq_div_pow,
    tosLanes]

theorem unpackTos_eq {v : Nat} (h : v < 256) :
    unpackTos v = v / 32 + v / 16 % 2 * 8 + v / 8 % 2 * 16 + v / 4 % 2 * 32 := by
  rw [unpackTos_eq_tosLanes, tosLanes_eq (by omega)]
  simp only [Nat.toNat_testBit]
  omega

theorem unpackTos_packTos {prec : Nat} (h : prec < 8) (ld ht hr : Bool) :
    unpackTos (packTos prec ld ht hr) = tosLanes prec ld ht hr := by
  decide +revert

theorem packTos_components {v : Nat} (h : v < 256) (hreserved : v % 4 = 0) :
    packTos (v / 32) (v.testBit 4) (v.testBit 3) (v.testBit 2) = v := by
  rw [packTos_eq (by omega)]
  simp only [Nat.toNat_testBit]
  omega

/-- A pack never sets a reserved bit (`43_composition.md` R351). -/
theorem packTos_legal {prec : Nat} (h : prec < 8) (ld ht hr : Bool) :
    packTos prec ld ht hr < 256 ∧ packTos prec ld ht hr % 4 = 0 := by
  decide +revert

/-! ### Flags -/

theorem packFlags_eq (df mf : Bool) : packFlags df mf = df.toNat * 2 + mf.toNat := by
  decide +revert

/-- An unpack answers the lanes the pack command takes its components in. -/
theorem unpackFlags_eq_flagLanes (v : Nat) :
    unpackFlags v = flagLanes (v.testBit 1) (v.testBit 0) := by
  rw [unpackFlags, bitOf_eq_testBit, bitOf_eq_testBit, flagLanes]

theorem unpackFlags_eq {v : Nat} (h : v < 4) : unpackFlags v = v / 2 + v % 2 * 2 := by
  rw [unpackFlags_eq_flagLanes, flagLanes_eq, Nat.toNat_testBit, Nat.toNat_testBit]
  omega

theorem unpackFlags_packFlags (df mf : Bool) :
    unpackFlags (packFlags df mf) = flagLanes df mf := by
  decide +revert

theorem packFlags_components {v : Nat} (h : v < 4) :
    packFlags (v.testBit 1) (v.testBit 0) = v := by
  rw [packFlags_eq, Nat.toNat_testBit, Nat.toNat_testBit]
  omega

/-- A pack never sets the reserved bit (`43_composition.md` R353). -/
theorem packFlags_le (df mf : Bool) : packFlags df mf ≤ 3 := by
  decide +revert

end Sys2Proof.Machine
end

section
/-! SUPPORT. The words of the two pack commands, and the commands of the composition family
(`43_composition.md`). -/

namespace Sys2Proof.Claims

open Sys2Proof.Machine Sys2Proof.Laws

/-! ### The words of a pack command (`30_encoding.md` R103, R104) -/

/-- A command has one word, its OPCODE above its IMM (`30_encoding.md` R111). -/
theorem decode_eq_ok_iff_toNat {w : Word} {i : Instr} : decode w = .ok i ↔
    i.wellFormed = true ∧ w.toNat = i.opcode.toNat * 2 ^ 24 + i.imm.toNat := by
  rw [decode_eq_ok_iff_encode, ← encode_toNat, BitVec.toNat_inj, eq_comm (a := w)]

theorem decode_ofNat_word {i : Instr} (hwf : i.wellFormed = true) :
    decode (BitVec.ofNat 32 (i.opcode.toNat * 2 ^ 24 + i.imm.toNat)) = .ok i := by
  rw [← encode_toNat, BitVec.ofNat_toNat, BitVec.setWidth_eq]
  exact decodeOfEncodeIsIdentity i hwf

theorem tosPack_wellFormed_iff {prec : Nat} {ld ht hr : Bool} :
    (Instr.tosPack prec ld ht hr).wellFormed = true ↔ prec < 8 := decide_eq_true_iff

theorem tosPack_imm_toNat {prec : Nat} (h : prec < 8) (ld ht hr : Bool) :
    (Instr.tosPack prec ld ht hr).imm.toNat = tosLanes prec ld ht hr := by
  decide +revert

theorem flagsPack_imm_toNat (df mf : Bool) :
    (Instr.flagsPack df mf).imm.toNat = flagLanes df mf := by
  decide +revert

theorem tosPack_word (w : Word) (prec : Nat) (ld ht hr : Bool) :
    decode w = .ok (.tosPack prec ld ht hr) ↔
      prec < 8 ∧ w.toNat = 0x23 * 2 ^ 24 + hr.toNat * 32 + ht.toNat * 16 + ld.toNat * 8 + prec := by
  rw [decode_eq_ok_iff_toNat, tosPack_wellFormed_iff]
  refine and_congr_right fun hprec => ?_
  rw [tosPack_imm_toNat hprec, tosLanes_eq hprec]
  simp only [← Nat.add_assoc]
  rfl

theorem flagsPack_word (w : Word) (df mf : Bool) :
    decode w = .ok (.flagsPack df mf) ↔ w.toNat = 0x3B * 2 ^ 24 + mf.toNat * 2 + df.toNat := by
  rw [decode_eq_ok_iff_toNat, flagsPack_imm_toNat, flagLanes_eq, ← Nat.add_assoc]
  exact and_iff_right rfl

/-! ### The outcomes -/

theorem tosPack_succeeds (prec : Nat) (ld ht hr : Bool) (s : State) :
    Succeeds (.tosPack prec ld ht hr) s (packTos prec ld ht hr) := rfl

theorem flagsPack_succeeds (df mf : Bool) (s : State) :
    Succeeds (.flagsPack df mf) s (packFlags df mf) := rfl

/-- Settles O44: the pack has no error, and the unpack validates a TypeOfService. -/
theorem typeOfServiceComposition : Obligations.TypeOfServiceComposition := by
  refine ⟨tosPack_word, encodedN_of_hasFields ⟨rfl, rfl, rfl⟩, fun s => ?_⟩
  obtain ⟨hwide, hlegal, hillegal⟩ :=
    outcome_of_validated .tos checksAs_tos (i := .tosUnpack) (s := s) rfl
  refine ⟨fun prec ld ht hr hprec => ?_, hwide, hillegal, fun hfits hreserved => ?_⟩
  · exact packTos_eq hprec ld ht hr ▸ tosPack_succeeds prec ld ht hr s
  · exact unpackTos_eq hfits ▸ hlegal hfits hreserved

/-- Settles O45: the pack has no error, and the unpack validates a Flags value. -/
theorem flagsComposition : Obligations.FlagsComposition := by
  refine ⟨flagsPack_word, encodedN_of_hasFields ⟨rfl, rfl, rfl⟩, fun s => ?_⟩
  obtain ⟨hwide, hlegal, hillegal⟩ :=
    outcome_of_validated .flags checksAs_flags (i := .flagsUnpack) (s := s) rfl
  refine ⟨fun df mf => ?_, hwide, fun hlarge hfits => ?_, fun hset hrange => ?_, fun hclear => ?_⟩
  · exact packFlags_eq df mf ▸ flagsPack_succeeds df mf s
  · have hraise := hillegal hfits (by omega)
    rwa [if_pos (Nat.lt_of_succ_le hlarge)] at hraise
  · have hraise := hillegal (hrange.trans (by decide)) (by omega)
    rwa [if_neg (by omega)] at hraise
  · exact unpackFlags_eq hclear ▸ hlegal (hclear.trans (by decide)) (Nat.le_of_lt_succ hclear)

/-! ### Pack and unpack are inverse (`43_composition.md` R350) -/

section Inverse

variable {unpack : Instr} {f : Field} {g : Nat → Nat}
  (hunpack : ∀ s, exec unpack s = .next (s.conclude ((s.validated f).map g)))
include hunpack

/-- The unpack of a legal result another command left in DOUT. -/
theorem unpack_of_result {i : Instr} {s t u : State} {v : Nat} (hwidth : f.storageWidth = 8)
    (hv : v < 256) (hcheck : f.check v = .ok v) (hresult : Succeeds i s v)
    (hexec : exec i s = .next t) (hd0 : u.d0 = t.dout) : Succeeds unpack u (g v) := by
  cases hresult.symm.trans hexec
  have hvalue : u.d0.toNat = v := by
    rw [hd0, BitVec.toNat_ofNat]
    exact Nat.mod_eq_of_lt (by omega)
  have hvalid : u.validated f = .ok v := by
    rw [validated_fits (by rwa [hwidth, hvalue]), hvalue, hcheck]
  exact succeeds_of_conclude (hunpack u) (by rw [hvalid, Except.map])

/-- The command of opcode `op` whose IMM is the result of an unpack answers the value unpacked, when
each legal value has such a command. -/
theorem pack_of_unpacked {op : Nat} {s t : State} (u : State)
    (hpack : ∀ v, v < 2 ^ f.storageWidth → f.check v = .ok v → ∃ i : Instr,
      i.wellFormed = true ∧ i.opcode.toNat = op ∧ i.imm.toNat = g v ∧ Succeeds i u v)
    (hexec : exec unpack s = .next t) (hstatus : t.status = 0#32) :
    ∃ i, decode (BitVec.ofNat 32 (op * 2 ^ 24 + t.dout.toNat)) = .ok i ∧
      Succeeds i u s.d0.toNat := by
  obtain ⟨n, hn, rfl⟩ :=
    exists_ok_of_status (hunpack s) ((s.validated_raises f 0).map g) hexec hstatus
  obtain ⟨rfl, hfits, hcheck⟩ := validated_map_ok hn
  obtain ⟨i, hwf, rfl, himm, hvalue⟩ := hpack _ hfits hcheck
  have hdout : (s.succeed (g s.d0.toNat)).dout.toNat = i.imm.toNat := by
    rw [State.succeed_dout, BitVec.toNat_ofNat, ← himm]
    exact Nat.mod_eq_of_lt (i.imm.isLt.trans (by decide))
  exact ⟨i, hdout ▸ decode_ofNat_word hwf, hvalue⟩

end Inverse

/-- The TOS_PACK of a legal value: its components stand in its IMM as an unpack answers them. -/
theorem exists_tosPack (u : State) (v : Nat) (hfits : v < 256) (hcheck : Field.check .tos v = .ok v) :
    ∃ i : Instr, i.wellFormed = true ∧ i.opcode.toNat = 0x23 ∧ i.imm.toNat = unpackTos v ∧
      Succeeds i u v := by
  have hreserved : v % 4 = 0 := (checksAs_tos v).legal_of_ok hcheck
  have hprec : v / 32 < 8 := by omega
  have hpack := tosPack_succeeds (v / 32) (v.testBit 4) (v.testBit 3) (v.testBit 2) u
  rw [packTos_components hfits hreserved] at hpack
  exact ⟨_, tosPack_wellFormed_iff.2 hprec, rfl,
    (tosPack_imm_toNat hprec _ _ _).trans (unpackTos_eq_tosLanes v).symm, hpack⟩

/-- The FLAGS_PACK of a legal value: its components stand in its IMM as an unpack answers them. -/
theorem exists_flagsPack (u : State) (v : Nat) (hcheck : Field.check .flags v = .ok v) :
    ∃ i : Instr, i.wellFormed = true ∧ i.opcode.toNat = 0x3B ∧ i.imm.toNat = unpackFlags v ∧
      Succeeds i u v := by
  have hclear : v ≤ 3 := (checksAs_flags v).legal_of_ok hcheck
  have hpack := flagsPack_succeeds (v.testBit 1) (v.testBit 0) u
  rw [packFlags_components (Nat.lt_succ_of_le hclear)] at hpack
  exact ⟨_, rfl, rfl, (flagsPack_imm_toNat _ _).trans (unpackFlags_eq_flagLanes v).symm, hpack⟩

/-- Settles O46: a packed value is legal and unpacks to the lanes of its IMM, and a value that
unpacks is the pack of its own components. -/
theorem packAndUnpackAreInverse : Obligations.PackAndUnpackAreInverse := by
  refine ⟨fun prec ld ht hr s t u hprec hexec hd0 => ?_, fun df mf s t u hexec hd0 => ?_,
    fun s t u => ?_, fun s t u => ?_⟩
  · obtain ⟨hfits, hreserved⟩ := packTos_legal hprec ld ht hr
    rw [tosPack_imm_toNat hprec, ← unpackTos_packTos hprec]
    exact unpack_of_result (fun _ => rfl) (f := .tos) rfl hfits ((checksAs_tos _).accepts hreserved)
      (tosPack_succeeds ..) hexec hd0
  · have hclear := packFlags_le df mf
    rw [flagsPack_imm_toNat, ← unpackFlags_packFlags]
    exact unpack_of_result (fun _ => rfl) (f := .flags) rfl (by omega)
      ((checksAs_flags _).accepts hclear) (flagsPack_succeeds ..) hexec hd0
  · exact pack_of_unpacked (fun _ => rfl) (f := .tos) u (exists_tosPack u)
  · exact pack_of_unpacked (fun _ => rfl) (f := .flags) u fun v _ => exists_flagsPack u v

end Sys2Proof.Claims
end

section
/-! SUPPORT. The decimal digits of a number: one digit at a time, the model's own form of an octet, and
the digit runs that are the digits of their value (`44_address.md` R405, R411, R412). -/

namespace Sys2Proof.Claims

open Sys2Proof.Machine

theorem digitsText_of_lt_ten {n : Nat} (h : n < 10) : digitsText n = [toByte (0x30 + n)] := by
  rw [digitsText, Nat.toDigits_of_lt_base h, List.map_singleton, Nat.toNat_digitChar_of_lt_ten h,
    toByte]

theorem digitsText_of_ten_le {n : Nat} (h : 10 ≤ n) :
    digitsText n = digitsText (n / 10) ++ [toByte (0x30 + n % 10)] := by
  have hlast : n % 10 < 10 := Nat.mod_lt n (by decide)
  rw [digitsText, Nat.toDigits_of_base_le (by decide) h, List.map_append, List.map_singleton,
    Nat.toNat_digitChar_of_lt_ten hlast, digitsText, toByte]

theorem digitsText_length_pos (n : Nat) : 1 ≤ (digitsText n).length := by
  rw [digitsText, List.length_map]
  exact Nat.length_toDigits_pos

theorem digitsText_length_le {n : Nat} (h : n < 256) : (digitsText n).length ≤ 3 := by
  rw [digitsText, List.length_map, Nat.length_toDigits_le_iff (by decide) (by decide)]
  omega

/-- `Dec` of an octet is its decimal digits (`44_address.md` R405). -/
theorem decimal_eq_digitsText {n : Nat} (h : n < 256) : decimal n = digitsText n := by
  unfold decimal
  split_ifs with h10 h100
  · exact (digitsText_of_lt_ten h10).symm
  · rw [digitsText_of_ten_le (by omega), digitsText_of_lt_ten (by omega), List.singleton_append]
  · have hhundreds : n / 10 / 10 = n / 100 := Nat.div_div_eq_div_mul n 10 10
    rw [digitsText_of_ten_le (by omega), digitsText_of_ten_le (by omega), hhundreds,
      digitsText_of_lt_ten (by omega), List.append_assoc, List.singleton_append,
      List.singleton_append]

theorem addressText_eq_dottedText {v : Nat} (h : v < 2 ^ 32) : addressText v = dottedText v := by
  have hfirst : octetOf v 24 = v / 2 ^ 24 := (octetOf_eq v 24).trans (Nat.mod_eq_of_lt (by omega))
  have hlast : octetOf v 0 = v % 256 := by rw [octetOf_eq, pow_zero, Nat.div_one]
  have hoctet : ∀ i, decimal (octetOf v i) = digitsText (octetOf v i) := fun i =>
    decimal_eq_digitsText (octetOf_lt v i)
  rw [addressText, hoctet, hoctet, hoctet, hoctet, hfirst, octetOf_eq, octetOf_eq, hlast, dottedText]

theorem dottedText_length {v : Nat} (h : v < 2 ^ 32) :
    7 ≤ (dottedText v).length ∧ (dottedText v).length ≤ 15 := by
  have hlength : ∀ n < 256, 1 ≤ (digitsText n).length ∧ (digitsText n).length ≤ 3 := fun n hn =>
    ⟨digitsText_length_pos n, digitsText_length_le hn⟩
  have ha := hlength (v / 2 ^ 24) (by omega)
  have hb := hlength (v / 2 ^ 16 % 256) (by omega)
  have hc := hlength (v / 2 ^ 8 % 256) (by omega)
  have hd := hlength (v % 256) (by omega)
  simp only [dottedText, List.length_append, List.length_singleton]
  omega

theorem dottedText_be32 {a b c d : Nat} (hb : b ≤ 255) (hc : c ≤ 255) (hd : d ≤ 255) :
    dottedText (be32 a b c d) = closedText [a, b, c] ++ digitsText d := by
  have hvalue : be32 a b c d = a * 2 ^ 24 + b * 2 ^ 16 + c * 2 ^ 8 + d :=
    be32_eq (by omega) (by omega) (by omega)
  have hfirst : be32 a b c d / 2 ^ 24 = a := by omega
  have hsecond : be32 a b c d / 2 ^ 16 % 256 = b := by omega
  have hthird : be32 a b c d / 2 ^ 8 % 256 = c := by omega
  have hfourth : be32 a b c d % 256 = d := by omega
  rw [dottedText, hfirst, hsecond, hthird, hfourth]
  simp [closedText]

theorem closedText_append (octets : List Nat) (n : Nat) :
    closedText (octets ++ [n]) = closedText octets ++ (digitsText n ++ [0x2E#8]) := by
  simp [closedText]

theorem decimalValue_append (ds : List Byte) (c : Byte) :
    decimalValue (ds ++ [c]) = decimalValue ds * 10 + (c.toNat - 0x30) :=
  List.foldl_append

theorem toByte_digit {c : Byte} (h : IsDigit c) : toByte (0x30 + (c.toNat - 0x30)) = c := by
  obtain ⟨hlo, -⟩ := h
  rw [Nat.add_sub_cancel' hlo, toByte, BitVec.ofNat_toNat, BitVec.setWidth_eq]

/-- A digit run with no leading zero is the digits of its value. -/
theorem digitsText_decimalValue {ds : List Byte} (hne : ds ≠ []) (hdigits : ∀ c ∈ ds, IsDigit c)
    (hzero : 2 ≤ ds.length → ds.head? ≠ some 0x30#8) : digitsText (decimalValue ds) = ds := by
  induction ds using List.reverseRecOn with
  | nil => exact absurd rfl hne
  | append_singleton ds c ih =>
    have hc : IsDigit c := hdigits c (by simp)
    have hlt : c.toNat - 0x30 < 10 := by
      obtain ⟨-, hhi⟩ := hc
      omega
    rw [decimalValue_append]
    rcases eq_or_ne ds [] with rfl | hds
    · have hvalue : decimalValue [] * 10 + (c.toNat - 0x30) = c.toNat - 0x30 := Nat.zero_add _
      rw [hvalue, digitsText_of_lt_ten hlt, toByte_digit hc, List.nil_append]
    · have hhead : ds.head? ≠ some 0x30#8 := by
        have hlong : 2 ≤ (ds ++ [c]).length := by
          have := List.length_pos_of_ne_nil hds
          simp only [List.length_append, List.length_singleton]
          omega
        rw [← List.head?_append_of_ne_nil ds hds]
        exact hzero hlong
      have hprefix : digitsText (decimalValue ds) = ds :=
        ih hds (fun b hb => hdigits b (by simp [hb])) fun _ => hhead
      have hpos : decimalValue ds ≠ 0 := fun h0 => by
        rw [h0] at hprefix
        exact hhead (hprefix ▸ rfl)
      have htens : (decimalValue ds * 10 + (c.toNat - 0x30)) / 10 = decimalValue ds := by omega
      have hunits : (decimalValue ds * 10 + (c.toNat - 0x30)) % 10 = c.toNat - 0x30 := by omega
      rw [digitsText_of_ten_le (by omega), htens, hunits, hprefix, toByte_digit hc]

end Sys2Proof.Claims
end

section
/-! SUPPORT. The scan of the text of an address inside an octet: a digit run of any length, how the
octet closes, and the text a scan that succeeds has read (`44_address.md` R404, R410 to R413). -/

namespace Sys2Proof.Machine

open Sys2Proof.Claims

/-! ### One byte, and the close of an octet -/

/-- The scan in octet `k`, after the digits `ds` of it. -/
def Scan.inOctet (k first : Nat) (octets : List Nat) (ds : List Byte) : Scan where
  k     := k
  acc   := min (decimalValue ds) 0xFFFFFFFF
  nd    := ds.length
  first := (ds.head?.map fun c => c.toNat - 0x30).getD first
  oct   := octets

theorem Scan.inOctet_nil (k first : Nat) (octets : List Nat) :
    Scan.inOctet k first octets [] = Scan.atOctet k first octets := rfl

theorem saturatingStep_min (n d : Nat) :
    saturatingStep (min n 0xFFFFFFFF) d = min (n * 10 + d) 0xFFFFFFFF := by
  unfold saturatingStep
  omega

section Octet

variable (k first : Nat) (octets : List Nat) {ds : List Byte}

theorem Scan.byte_inOctet_digit {c : Byte} (hc : IsDigit c) :
    (Scan.inOctet k first octets ds).byte c = .ok (Scan.inOctet k first octets (ds ++ [c])) := by
  obtain ⟨hlo, hhi⟩ := hc
  rw [Scan.byte, if_pos ⟨hlo, hhi⟩]
  simp only [Scan.inOctet, saturatingStep_min, decimalValue_append, List.length_append,
    List.length_singleton]
  cases ds <;> rfl

theorem Scan.byte_invalid (st : Scan) {c : Byte} (hdigit : ¬ IsDigit c) (hperiod : c ≠ 0x2E#8) :
    st.byte c = .error ⟨.invalidCharacter, c.toNat, st.k⟩ := by
  have hne : c.toNat ≠ 0x2E := fun h => hperiod (BitVec.eq_of_toNat_eq h)
  unfold IsDigit at hdigit
  rw [Scan.byte, if_neg hdigit, if_neg hne]

theorem Scan.byte_period_error {st : Scan} {r : Raise} (h : st.close = .error r) :
    st.byte 0x2E#8 = .error r := by
  rw [Scan.byte, if_neg (by decide), if_pos (by decide), h, Except.map]

theorem Scan.close_empty :
    (Scan.atOctet k first octets).close = .error ⟨.invalidFormat, 0, k⟩ := if_pos rfl

theorem Scan.close_outOfRange (h : 255 < decimalValue ds) :
    (Scan.inOctet k first octets ds).close =
      .error ⟨.octetOutOfRange, min (decimalValue ds) 0xFFFFFFFF, k⟩ := by
  have hnd : ds.length ≠ 0 := fun h0 => by
    rw [List.eq_nil_of_length_eq_zero h0] at h
    exact absurd h (by decide)
  have hacc : 255 < min (decimalValue ds) 0xFFFFFFFF := by omega
  rw [Scan.close, Scan.inOctet, if_neg hnd, if_pos hacc]

theorem Scan.close_leadingZero (hlength : 2 ≤ ds.length) (hhead : ds.head? = some 0x30#8)
    (hvalue : decimalValue ds ≤ 255) :
    (Scan.inOctet k first octets ds).close = .error ⟨.leadingZero, decimalValue ds, k⟩ := by
  have hacc : min (decimalValue ds) 0xFFFFFFFF = decimalValue ds := min_eq_left (by omega)
  have hnd : ds.length ≠ 0 := by omega
  rw [Scan.close, Scan.inOctet, hacc, hhead, if_neg hnd, if_neg hvalue.not_gt,
    if_pos ⟨hlength, rfl⟩]

/-- An octet that closes is the digits of a number up to 255. -/
theorem Scan.close_inOctet_ok {st : Scan} (hdigits : ∀ c ∈ ds, IsDigit c)
    (h : (Scan.inOctet k first octets ds).close = .ok st) :
    ∃ n ≤ 255, ds = digitsText n ∧ st.k = k ∧ st.oct = octets ++ [n] := by
  rcases eq_or_ne ds [] with rfl | hne
  · cases h.symm.trans (Scan.close_empty k first octets)
  rcases Nat.lt_or_ge 255 (decimalValue ds) with hlarge | hvalue
  · cases h.symm.trans (Scan.close_outOfRange k first octets hlarge)
  have hzero : 2 ≤ ds.length → ds.head? ≠ some 0x30#8 := fun hlength hhead => by
    cases h.symm.trans (Scan.close_leadingZero k first octets hlength hhead hvalue)
  have hacc : min (decimalValue ds) 0xFFFFFFFF = decimalValue ds := min_eq_left (by omega)
  refine ⟨decimalValue ds, hvalue, (digitsText_decimalValue hne hdigits hzero).symm,
    Scan.close_ok_k h, ?_⟩
  unfold Scan.close at h
  split_ifs at h
  cases h
  rw [Scan.inOctet, hacc]

/-! ### The bytes of a text -/

theorem Scan.run_digits (hdigits : ∀ c ∈ ds, IsDigit c) (cs : List Byte) :
    Scan.run (Scan.atOctet k first octets) (ds ++ cs) =
      Scan.run (Scan.inOctet k first octets ds) cs := by
  induction ds using List.reverseRecOn generalizing cs with
  | nil => rfl
  | append_singleton ds c ih =>
    rw [List.append_assoc, ih (fun b hb => hdigits b (by simp [hb])), List.singleton_append,
      Scan.run_cons, Scan.byte_inOctet_digit k first octets (hdigits c (by simp)), Except.bind]

end Octet

/-- Where an octet closes, an error of the close ends the scan. -/
theorem Scan.run_of_close_error {st : Scan} {rest : List Byte} {r : Raise} (hrest : Closes rest)
    (h : st.close = .error r) : Scan.run st rest = .error r := by
  obtain rfl | ⟨more, rfl⟩ := hrest
  · exact h
  · rw [Scan.run_cons, Scan.byte_period_error h, Except.bind]

/-- The scan of octets that each a period closes. -/
theorem Scan.run_closedText {octets : List Nat} (hoctets : ∀ n ∈ octets, n ≤ 255)
    (cs : List Byte) : ∃ first, Scan.run Scan.start (closedText octets ++ cs) =
      Scan.run (Scan.atOctet octets.length first octets) cs := by
  induction octets using List.reverseRecOn generalizing cs with
  | nil => exact ⟨0, rfl⟩
  | append_singleton octets n ih =>
    have hn : n < 256 := Nat.lt_succ_of_le (hoctets n (by simp))
    obtain ⟨first, hrun⟩ := ih (fun m hm => hoctets m (by simp [hm])) (decimal n ++ 0x2E#8 :: cs)
    obtain ⟨first', hoctet⟩ := Scan.run_octet hn octets.length first octets cs
    refine ⟨first', ?_⟩
    rw [List.length_append, List.length_singleton, ← hoctet, ← hrun, closedText_append,
      decimal_eq_digitsText hn, List.append_assoc, List.append_assoc, List.singleton_append]

/-- The text a scan that succeeds has read: closed octets and one more, each the digits of a number up
to 255. -/
theorem Scan.text_of_run_ok {k first : Nat} {octets : List Nat} {ds cs : List Byte} {st : Scan}
    (hoctets : ∀ n ∈ octets, n ≤ 255) (hdigits : ∀ c ∈ ds, IsDigit c)
    (h : Scan.run (Scan.inOctet k first octets ds) cs = .ok st) :
    ∃ closed n, (∀ m ∈ closed ++ [n], m ≤ 255) ∧ st.oct = closed ++ [n] ∧
      closedText octets ++ ds ++ cs = closedText closed ++ digitsText n := by
  induction cs generalizing k first octets ds with
  | nil =>
    obtain ⟨n, hn, rfl, -, hoct⟩ := Scan.close_inOctet_ok k first octets hdigits h
    refine ⟨octets, n, ?_, hoct, List.append_nil _⟩
    simpa [or_imp, forall_and] using ⟨hoctets, hn⟩
  | cons c cs ih =>
    rw [Scan.run_cons] at h
    by_cases hc : IsDigit c
    · rw [Scan.byte_inOctet_digit k first octets hc] at h
      obtain ⟨closed, n, hbound, hoct, htext⟩ :=
        ih hoctets (by simpa [or_imp, forall_and] using ⟨hdigits, hc⟩) h
      refine ⟨closed, n, hbound, hoct, ?_⟩
      simpa using htext
    rcases eq_or_ne c 0x2E#8 with rfl | hperiod
    · cases hclose : (Scan.inOctet k first octets ds).close with
      | error r =>
        rw [Scan.byte_period_error hclose] at h
        cases h
      | ok st' =>
        rw [Scan.byte_period hclose, Except.bind, ← Scan.inOctet_nil] at h
        obtain ⟨n, hn, rfl, -, hclosed⟩ := Scan.close_inOctet_ok k first octets hdigits hclose
        rw [hclosed] at h
        obtain ⟨closed, m, hbound, hoct, htext⟩ :=
          ih (by simpa [or_imp, forall_and] using ⟨hoctets, hn⟩) (by simp) h
        refine ⟨closed, m, hbound, hoct, ?_⟩
        simpa [closedText_append] using htext
    · rw [Scan.byte_invalid _ hc hperiod] at h
      cases h

/-! ### The count of octets, and the whole text (`44_address.md` R413, R415) -/

theorem addressOfOctets_ok {octets : List Nat} {v : Nat} (h : addressOfOctets octets = .ok v) :
    ∃ a b c d, octets = [a, b, c, d] ∧ v = be32 a b c d := by
  unfold addressOfOctets at h
  split at h <;> cases h
  exact ⟨_, _, _, _, rfl, rfl⟩

theorem addressOfOctets_wrongCount {octets : List Nat} (h : octets.length ≠ 4) :
    addressOfOctets octets = .error ⟨.invalidFormat, octets.length, 0⟩ := by
  unfold addressOfOctets
  split
  · exact absurd rfl h
  · rfl

theorem parseText_of_run_error {text : List Byte} {r : Raise} (hne : text ≠ [])
    (h : Scan.run Scan.start text = .error r) : parseText text = .error r := by
  cases text with
  | nil => exact absurd rfl hne
  | cons c cs => rw [parseText, h, Except.bind]

theorem exists_run_of_parseText_ok {text : List Byte} {v : Nat} (h : parseText text = .ok v) :
    ∃ st, Scan.run Scan.start text = .ok st ∧ addressOfOctets st.oct = .ok v := by
  cases hrun : Scan.run Scan.start text with
  | ok st => exact ⟨st, rfl, (parseText_of_run hrun).symm.trans h⟩
  | error r =>
    cases text with
    | nil => cases h
    | cons c cs => cases h.symm.trans (parseText_of_run_error (List.cons_ne_nil c cs) hrun)

theorem be32_lt {a b c d : Nat} (ha : a ≤ 255) (hb : b ≤ 255) (hc : c ≤ 255) (hd : d ≤ 255) :
    be32 a b c d < 2 ^ 32 := by
  rw [be32_eq (by omega) (by omega) (by omega)]
  omega

/-- A text that parses is the dotted-decimal text of the address. -/
theorem dottedText_of_parseText_ok {text : List Byte} {v : Nat} (h : parseText text = .ok v) :
    v < 2 ^ 32 ∧ text = dottedText v := by
  obtain ⟨st, hrun, haddress⟩ := exists_run_of_parseText_ok h
  obtain ⟨a, b, c, d, hoct, rfl⟩ := addressOfOctets_ok haddress
  obtain ⟨closed, n, hbound, hclosed, htext⟩ :=
    Scan.text_of_run_ok (ds := []) (octets := []) (by simp) (by simp) hrun
  have hoctets : closed ++ [n] = [a, b, c] ++ [d] := hclosed.symm.trans hoct
  obtain ⟨rfl, hn⟩ := List.append_inj' hoctets rfl
  cases hn
  have ha : a ≤ 255 := hbound a (by simp)
  have hb : b ≤ 255 := hbound b (by simp)
  have hc : c ≤ 255 := hbound c (by simp)
  have hd : d ≤ 255 := hbound d (by simp)
  exact ⟨be32_lt ha hb hc hd, (dottedText_be32 hb hc hd).symm ▸ htext⟩

/-- The parse accepts exactly the dotted-decimal texts of addresses. -/
theorem parseText_eq_ok_iff {text : List Byte} {v : Nat} :
    parseText text = .ok v ↔ v < 2 ^ 32 ∧ text = dottedText v := by
  refine ⟨dottedText_of_parseText_ok, fun ⟨hv, htext⟩ => ?_⟩
  rw [htext, ← addressText_eq_dottedText hv, parseText_addressText hv]

end Sys2Proof.Machine
end

section
/-! SUPPORT. The commands of the address family (`44_address.md`): construction, binary form, text form
and classification. -/

namespace Sys2Proof.Claims

open Sys2Proof.Machine Sys2Proof.Laws

/-! ### The text parse (`44_address.md` R404, R410 to R415) -/

theorem parseText_of_exec {s t : State} {off : Nat} (hexec : exec (.addrParseText off) s = .next t)
    (hstatus : t.status = 0#32) : parseText (s.view off) = .ok t.dout.toNat := by
  obtain ⟨v, hv, rfl⟩ := exists_ok_of_status rfl (parseText_raises (s.view off)) hexec hstatus
  obtain ⟨hlt, -⟩ := parseText_eq_ok_iff.1 hv
  rw [hv, State.succeed_dout, BitVec.toNat_ofNat, Nat.mod_eq_of_lt hlt]

/-- Settles O50: a success leaves in DOUT the value of a text that parses, and the texts that parse are
the dotted-decimal texts. -/
theorem textParseAcceptsExactlyAddressTexts : Obligations.TextParseAcceptsExactlyAddressTexts := by
  refine ⟨encodedV_of_hasViewFields fun _ => ⟨rfl, rfl, rfl⟩, fun s off =>
    ⟨fun v => ⟨fun hsucceeds => ?_, fun hview => ?_⟩, fun t hexec hstatus => ?_⟩⟩
  · have hparse := parseText_of_exec hsucceeds rfl
    rw [BitVec.ofNat_toNat, BitVec.setWidth_eq] at hparse
    exact (parseText_eq_ok_iff.1 hparse).2
  · exact succeeds_of_conclude rfl (parseText_eq_ok_iff.2 ⟨v.isLt, hview⟩)
  · exact succeeds_of_conclude rfl (parseText_of_exec hexec hstatus)

/-- A position in a view is below IBUF_SIZE, so EPOS holds it. -/
theorem raises_of_parseText {s : State} (hinv : s.Inv) {off v p : Nat} {c : Code}
    (h : parseText (s.view off) = .error ⟨c, v, p⟩) :
    Raises (.addrParseText off) s c.number.toNat v p := by
  have hexec : exec (.addrParseText off) s = .next (s.conclude (parseText (s.view off))) := rfl
  have hpos : p ≤ (s.view off).length := (parseText_raises _ _ h).posLe
  have hview := hinv.view_length_le off
  obtain ⟨-, hmax, -, -⟩ := (Config.ok_iff _).1 hinv.sizes
  exact raises_of_exec (by rw [hexec, h, State.conclude_error]) (by omega)

section Errors

variable {octets : List Nat} (hoctets : ∀ n ∈ octets, n ≤ 255)
include hoctets

/-- After octets that closed, the text is scanned on from their number. -/
theorem parseText_error_after {rest : List Byte} {r : Raise} (hne : closedText octets ++ rest ≠ [])
    (h : ∀ first, Scan.run (Scan.atOctet octets.length first octets) rest = .error r) :
    parseText (closedText octets ++ rest) = .error r := by
  obtain ⟨first, hrun⟩ := Scan.run_closedText hoctets rest
  exact parseText_of_run_error hne (hrun.trans (h first))

theorem parseText_emptyOctet {rest : List Byte} (hrest : Closes rest)
    (hne : closedText octets ++ rest ≠ []) :
    parseText (closedText octets ++ rest) = .error ⟨.invalidFormat, 0, octets.length⟩ :=
  parseText_error_after hoctets hne fun first =>
    Scan.run_of_close_error hrest (Scan.close_empty octets.length first octets)

theorem parseText_wrongCount {n : Nat} (hn : n ≤ 255) (hcount : octets.length ≠ 3) :
    parseText (closedText octets ++ digitsText n) =
      .error ⟨.invalidFormat, octets.length + 1, 0⟩ := by
  have hn : n < 256 := Nat.lt_succ_of_le hn
  obtain ⟨first, hrun⟩ := Scan.run_closedText hoctets (decimal n)
  obtain ⟨st, hlast, hoct⟩ := Scan.run_lastOctet hn octets.length first octets
  have hlength : (octets ++ [n]).length = octets.length + 1 := List.length_append
  rw [← decimal_eq_digitsText hn, parseText_of_run (hrun.trans hlast), hoct,
    addressOfOctets_wrongCount (by omega), hlength]

variable {ds : List Byte} (hdigits : ∀ c ∈ ds, IsDigit c)
include hdigits

theorem parseText_invalidByte {c : Byte} (hdigit : ¬ IsDigit c) (hperiod : c ≠ 0x2E#8)
    (rest : List Byte) : parseText (closedText octets ++ (ds ++ c :: rest)) =
      .error ⟨.invalidCharacter, c.toNat, octets.length⟩ := by
  refine parseText_error_after hoctets (by simp) fun first => ?_
  rw [Scan.run_digits _ _ _ hdigits, Scan.run_cons, Scan.byte_invalid _ hdigit hperiod]
  rfl

/-- After the digits of an octet, the scan ends with the error of its close. -/
theorem parseText_of_close_error {rest : List Byte} {r : Raise} (hne : ds ≠ [])
    (hrest : Closes rest)
    (h : ∀ first, (Scan.inOctet octets.length first octets ds).close = .error r) :
    parseText (closedText octets ++ (ds ++ rest)) = .error r := by
  refine parseText_error_after hoctets (by simp [hne]) fun first => ?_
  rw [Scan.run_digits _ _ _ hdigits, Scan.run_of_close_error hrest (h first)]

end Errors

/-- Settles O51: the octets before close, and the scan ends at the byte or the close that fails. -/
theorem textParseErrors : Obligations.TextParseErrors := by
  intro s off octets ds rest hinv hoctets hdigits
  simp only [List.append_assoc]
  refine ⟨fun hview => ?_, fun c hdigit hperiod hview => ?_, fun hrest hview hne => ?_,
    fun hrest hvalue hview => ?_, fun hrest hlength hhead hvalue hview => ?_,
    fun n hn hcount hview => ?_⟩
  · exact raises_of_parseText (c := .empty) hinv (by rw [hview, parseText])
  · refine raises_of_parseText (c := .invalidCharacter) hinv ?_
    rw [hview, parseText_invalidByte hoctets hdigits hdigit hperiod]
  · refine raises_of_parseText (c := .invalidFormat) hinv ?_
    rw [hview, parseText_emptyOctet hoctets hrest (hview ▸ hne)]
  · have hds : ds ≠ [] := by
      rintro rfl
      exact absurd hvalue (by decide)
    refine raises_of_parseText (c := .octetOutOfRange) hinv ?_
    rw [hview, parseText_of_close_error hoctets hdigits hds hrest fun first =>
      Scan.close_outOfRange _ first _ hvalue]
  · have hds : ds ≠ [] := List.ne_nil_of_length_pos (by omega)
    refine raises_of_parseText (c := .leadingZero) hinv ?_
    rw [hview, parseText_of_close_error hoctets hdigits hds hrest fun first =>
      Scan.close_leadingZero _ first _ hlength hhead hvalue]
  · refine raises_of_parseText (c := .invalidFormat) hinv ?_
    rw [hview, parseText_wrongCount hoctets hn hcount]

/-! ### The text format (`44_address.md` R405) -/

/-- Settles O49: the fetch of an address never fails, `Dec` writes the decimal digits, and the parse
accepts the text. -/
theorem addressTextFormat : Obligations.AddressTextFormat := by
  refine ⟨⟨encodedN_of_hasFields ⟨rfl, rfl, rfl⟩, fun s hok => ?_⟩, fun v => ?_⟩
  · have hfits : s.d0.toNat < 2 ^ 32 := s.d0.isLt
    have hoffer : (s.operand .addr).map addressText = .ok (dottedText s.d0.toNat) := by
      rw [State.operand_addr, Except.map, addressText_eq_dottedText hfits]
    refine ⟨fun hwide => absurd hfits hwide.not_gt, fun _ hillegal => absurd trivial hillegal,
      fun _ _ hroom => ?_, fun _ _ hfull => ?_⟩
    · exact emits_of_emit rfl hoffer hok hroom
    · exact raises_of_emit_full rfl hoffer hfull
  · obtain ⟨hmin, hmax⟩ := dottedText_length v.isLt
    exact ⟨hmin, hmax, fun u off hview =>
      succeeds_of_conclude rfl (parseText_eq_ok_iff.2 ⟨v.isLt, hview⟩)⟩

/-! ### Construction (`44_address.md` R400, R401) -/

/-- The lanes of D0 are the octets in argument order. -/
theorem addressOfLanes_eq {a b c d : Nat} (ha : a < 256) (hb : b < 256) (hc : c < 256)
    (hd : d < 256) : addressOfLanes (d * 2 ^ 24 + c * 2 ^ 16 + b * 2 ^ 8 + a) =
      a * 2 ^ 24 + b * 2 ^ 16 + c * 2 ^ 8 + d := by
  rw [addressOfLanes, be32_eq (octetOf_lt _ _) (octetOf_lt _ _) (octetOf_lt _ _)]
  simp only [octetOf_eq]
  omega

/-- Settles O47: D0 itself, and D0 with its lanes in the other order. -/
theorem addressConstruction : Obligations.AddressConstruction := by
  refine ⟨encodedN_of_hasFields ⟨rfl, rfl, rfl⟩, encodedN_of_hasFields ⟨rfl, rfl, rfl⟩,
    fun s => ⟨?_, fun a b c d ha hb hc hd hd0 => ?_⟩⟩
  · exact succeeds_of_conclude rfl (validated_fits (f := .addr) s.d0.isLt)
  · have hsucceeds : Succeeds .addrOctets s (addressOfLanes s.d0.toNat) := rfl
    rwa [hd0, addressOfLanes_eq ha hb hc hd] at hsucceeds

/-! ### The binary form (`44_address.md` R402, R403) -/

theorem toByte_octetOf (v i : Nat) : toByte (octetOf v i) = BitVec.ofNat 8 (v / 2 ^ i) := by
  apply BitVec.eq_of_toNat_eq
  rw [toByte_toNat (octetOf_lt v i), octetOf_eq, BitVec.toNat_ofNat]

theorem wire32_eq (v : Nat) : wire32 v =
    [BitVec.ofNat 8 (v / 2 ^ 24), BitVec.ofNat 8 (v / 2 ^ 16), BitVec.ofNat 8 (v / 2 ^ 8),
      BitVec.ofNat 8 v] := by
  simp only [wire32, toByte_octetOf, pow_zero, Nat.div_one]

theorem parseQuad_short {V : List Byte} (hne : V ≠ []) (h : V.length < 4) :
    parseQuad V = .error ⟨.insufficientBytes, V.length, 0⟩ := by
  unfold parseQuad
  split
  · exact absurd rfl hne
  · simp only [List.length_cons] at h
    omega
  · rfl

theorem parseQuad_view {s : State} {off : Nat} (h : off + 4 ≤ s.ilen.toNat) :
    parseQuad (s.view off) = .ok ((s.ibufByte off).toNat * 2 ^ 24 +
      (s.ibufByte (off + 1)).toNat * 2 ^ 16 + (s.ibufByte (off + 2)).toNat * 2 ^ 8 +
      (s.ibufByte (off + 3)).toNat) := by
  rw [view_eq_cons (by omega), view_eq_cons (by omega), view_eq_cons (by omega),
    view_eq_cons (by omega), parseQuad, be32_eq (BitVec.isLt _) (BitVec.isLt _) (BitVec.isLt _)]

/-- Settles O48: the view holds no byte, too few, or four, and the wire form is the four octets. -/
theorem addressBinaryForms : Obligations.AddressBinaryForms := by
  refine ⟨encodedV_of_hasViewFields fun _ => ⟨rfl, rfl, rfl⟩, fun s off =>
    ⟨fun hempty => ?_, fun n hpos hshort hilen => ?_, fun hfour => ?_⟩, ?_⟩
  · exact raises_of_conclude (c := .empty) rfl (by rw [view_eq_nil hempty, parseQuad])
  · have hlength : (s.view off).length = n := by
      rw [s.view_length]
      omega
    have hne : s.view off ≠ [] := List.ne_nil_of_length_pos (by omega)
    refine raises_of_conclude (c := .insufficientBytes) rfl ?_
    rw [parseQuad_short hne (by omega), hlength]
  · exact succeeds_of_conclude rfl (parseQuad_view hfour)
  · exact serCommand_of_field .addr (checksAs_free fun _ => rfl) ⟨rfl, rfl, rfl⟩ (fun _ => rfl)
      wire32_eq

/-! ### Classification (`44_address.md` R406) -/

section Class

variable {a : Nat}

theorem classCode_a (h : a ≤ 127) : classCode a = 0 := if_pos h

theorem classCode_b (hlo : 128 ≤ a) (hhi : a ≤ 191) : classCode a = 1 := by
  rw [classCode, if_neg (by omega), if_pos hhi]

theorem classCode_c (hlo : 192 ≤ a) (hhi : a ≤ 223) : classCode a = 2 := by
  rw [classCode, if_neg (by omega), if_neg (by omega), if_pos hhi]

theorem classCode_d (hlo : 224 ≤ a) (hhi : a ≤ 239) : classCode a = 3 := by
  rw [classCode, if_neg (by omega), if_neg (by omega), if_neg (by omega), if_pos hhi]

theorem classCode_e (hlo : 240 ≤ a) : classCode a = 4 := by
  rw [classCode, if_neg (by omega), if_neg (by omega), if_neg (by omega), if_neg (by omega)]

end Class

/-- DOUT of a class code: the code, multicast in bit 8 and reserved in bit 9. -/
theorem addrClass_succeeds {s : State} {code : Nat} (h : classCode (s.d0.toNat / 2 ^ 24) = code) :
    Succeeds .addrClass s
      (code ||| ((if code = 3 then 1 else 0) <<< 8) ||| ((if code = 4 then 1 else 0) <<< 9)) := by
  have hfits := s.d0.isLt
  have hfirst : octetOf s.d0.toNat 24 = s.d0.toNat / 2 ^ 24 :=
    (octetOf_eq _ 24).trans (Nat.mod_eq_of_lt (by omega))
  refine succeeds_of_conclude rfl ?_
  rw [State.operand_addr, Except.map, hfirst, classLanes, h]

/-- Settles O52: leading bits are bounds of the first octet, and each class has its own. -/
theorem addressClassification : Obligations.AddressClassification := by
  refine ⟨encodedN_of_hasFields ⟨rfl, rfl, rfl⟩, fun s =>
    ⟨fun hbits => ?_, fun hbits => ?_, fun hbits => ?_, fun hbits => ?_, fun hbits => ?_⟩⟩
  · exact addrClass_succeeds (classCode_a (by omega))
  · exact addrClass_succeeds (classCode_b (by omega) (by omega))
  · exact addrClass_succeeds (classCode_c (by omega) (by omega))
  · exact addrClass_succeeds (classCode_d (by omega) (by omega))
  · exact addrClass_succeeds (classCode_e (by omega))

end Sys2Proof.Claims
end

section
/-! SUPPORT. The checksum (`45_checksum.md`): the fold by its closed form, the word sum by weights, and
how the complement of a fold completes a sum to a multiple of 0xFFFF. -/

namespace Sys2Proof.Claims

open Sys2Proof.Machine Sys2Proof.Laws

/-! ### The end-around fold (R452) -/

theorem foldPass_eq (n : Nat) : foldPass n = n % 65536 + n / 65536 := by
  rw [foldPass, Nat.shiftRight_eq_div_pow]
  exact congrArg (· + _) (Nat.and_two_pow_sub_one_eq_mod n 16)

theorem closedFold_of_pos {n : Nat} (h : 1 ≤ n) : closedFold n = (n - 1) % 0xFFFF + 1 :=
  if_neg (by omega)

theorem closedFold_le (n : Nat) : closedFold n ≤ 0xFFFF := by
  unfold closedFold
  split <;> omega

theorem closedFold_of_le {n : Nat} (h : n ≤ 0xFFFF) : closedFold n = n := by
  unfold closedFold
  split <;> omega

theorem closedFold_eq_max_iff (n : Nat) : closedFold n = 0xFFFF ↔ 1 ≤ n ∧ n % 0xFFFF = 0 := by
  unfold closedFold
  split <;> omega

/-- A pass takes q * 65536 + r to q + r: it takes a multiple of 0xFFFF away, and not all of `n`. -/
theorem closedFold_foldPass {n : Nat} (h : 0xFFFF < n) : closedFold (foldPass n) = closedFold n := by
  have hpass := foldPass_eq n
  rw [closedFold_of_pos (by omega), closedFold_of_pos (by omega)]
  omega

/-- Enough passes reach the closed form, since each keeps it. -/
theorem foldWithin_eq_closedFold {fuel n : Nat} (h : n ≤ fuel + 0xFFFF) :
    foldWithin fuel n = closedFold n := by
  induction fuel generalizing n with
  | zero => rw [foldWithin, closedFold_of_le (by omega)]
  | succ fuel ih =>
    rw [foldWithin]
    split
    next hlarge =>
      have hless := foldPass_lt hlarge
      rw [ih (by omega), closedFold_foldPass hlarge]
    next hsmall => rw [closedFold_of_le (by omega)]

theorem fold_eq_closedFold (n : Nat) : fold n = closedFold n := foldWithin_eq_closedFold (by omega)

/-- Settles O53: the fold is its closed form, which a pass of the loop keeps. -/
theorem foldHasClosedForm : Obligations.FoldHasClosedForm := by
  intro n
  simp only [fold_eq_closedFold, ← foldPass_eq]
  refine ⟨?_, foldPass_lt, trivial, closedFold_le n, fun hpos => ?_, closedFold_eq_max_iff n⟩
  · split
    next hlarge => exact (closedFold_foldPass hlarge).symm
    next hsmall => exact closedFold_of_le (by omega)
  · rw [closedFold_of_pos hpos]
    omega

/-! ### The sum of the words of a view (R450, R451) -/

theorem weightedSum_cons_cons (b0 b1 : Byte) (rest : List Byte) :
    weightedSum (b0 :: b1 :: rest) = b0.toNat * 256 + b1.toNat + weightedSum rest := by
  simp [weightedSum, Finset.sum_range_succ', Nat.add_assoc]
  ac_rfl

theorem wordSum_eq_weightedSum (V : List Byte) : wordSum V = weightedSum V := by
  induction V using wordSum.induct with
  | case1 => rfl
  | case2 b => simp [wordSum, weightedSum, Nat.shiftLeft_eq]
  | case3 b0 b1 rest ih => rw [wordSum, weightedSum_cons_cons, be16_eq, ih]

/-- Writing a word over a zero word of a view adds it to the sum. -/
theorem wordSum_set_zeroWord (hi lo : Byte) {V : List Byte} {j : Nat}
    (h0 : V[2 * j]? = some 0#8) (h1 : V[2 * j + 1]? = some 0#8) :
    wordSum ((V.set (2 * j) hi).set (2 * j + 1) lo) = wordSum V + be16 hi lo := by
  induction V using wordSum.induct generalizing j with
  | case1 => simp at h0
  | case2 b => simp at h1
  | case3 b0 b1 rest ih =>
    cases j with
    | zero =>
      cases h0
      cases h1
      simp [wordSum, be16_eq, Nat.add_comm]
    | succ j =>
      have hsum := ih (j := j) (by simpa [Nat.mul_succ] using h0) (by simpa [Nat.mul_succ] using h1)
      simpa [wordSum, Nat.mul_succ, Nat.add_assoc] using hsum

/-! ### The two commands (R453, R454) and the law between them (R456) -/

/-- The complement of a 16-bit value. -/
theorem xor_max_eq_sub {v : Nat} (h : v ≤ 0xFFFF) : 0xFFFF ^^^ v = 0xFFFF - v := by
  have hnot := congrArg BitVec.toNat (BitVec.not_def (x := BitVec.ofNat 16 v))
  simp only [BitVec.toNat_not, BitVec.toNat_xor, BitVec.toNat_allOnes, BitVec.toNat_ofNat,
    Nat.mod_eq_of_lt (show v < 2 ^ 16 by omega)] at hnot
  exact hnot.symm

/-- Settles O54: the fold is the closed form, the word sum the weighted sum. -/
theorem checksumCommands : Obligations.ChecksumCommands := by
  refine ⟨encodedV_of_hasViewFields fun _ => ⟨rfl, rfl, rfl⟩,
    encodedV_of_hasViewFields fun _ => ⟨rfl, rfl, rfl⟩, fun s off => ?_⟩
  rw [← wordSum_eq_weightedSum, ← fold_eq_closedFold]
  refine ⟨succeeds_of_conclude rfl (congrArg Except.ok (xor_max_eq_sub ?_)), rfl⟩
  exact foldWithin_le (by omega)

/-- A sum and the complement of its fold add up to a non-zero multiple of 0xFFFF. -/
theorem closedFold_add_complement (n : Nat) : closedFold (n + (0xFFFF - closedFold n)) = 0xFFFF := by
  rw [closedFold_eq_max_iff]
  unfold closedFold
  split <;> omega

theorem be16_bytes {v : Nat} (h : v ≤ 0xFFFF) :
    be16 (BitVec.ofNat 8 (v / 256)) (BitVec.ofNat 8 (v % 256)) = v := by
  rw [be16_eq, BitVec.toNat_ofNat, BitVec.toNat_ofNat]
  omega

/-- Settles O55: the checksum's word adds the complement of the fold to the sum. -/
theorem computedChecksumVerifies : Obligations.ComputedChecksumVerifies := by
  intro s t u off off' j _ h0 h1 hexec hview
  obtain ⟨-, -, hcommands⟩ := checksumCommands
  obtain ⟨hcompute, -⟩ := hcommands s off
  obtain ⟨-, hverify⟩ := hcommands u off'
  cases hcompute.symm.trans hexec
  rwa [hview, BitVec.toNat_ofNat, Nat.mod_eq_of_lt (by omega), ← wordSum_eq_weightedSum,
    wordSum_set_zeroWord _ _ h0 h1, be16_bytes (by omega), wordSum_eq_weightedSum,
    if_pos (closedFold_add_complement _)] at hverify

end Sys2Proof.Claims
end

section
/-! SUPPORT. Comparison and buffer control (`46_control.md`): the bit of each order of D0 and D1, and
the end of each of the two commands. -/

namespace Sys2Proof.Claims

open Sys2Proof.Machine

/-! ### The bit of the comparison (R480) -/

theorem compareLanes_self (x : Word) : compareLanes x x = 1 := by
  simp [compareLanes]

theorem compareLanes_of_lt {x y : Word} (h : x.toNat < y.toNat) : compareLanes x y = 2 := by
  simp [compareLanes, h, h.ne, h.not_gt]

theorem compareLanes_of_gt {x y : Word} (h : y.toNat < x.toNat) : compareLanes x y = 4 := by
  simp [compareLanes, h, h.ne', h.not_gt]

/-! ### The two commands (R480, R481) -/

theorem cmpRaw_succeeds (s : State) : Succeeds .cmpRaw s (compareLanes s.d0 s.d1) := rfl

theorem exec_obufClear (s : State) : exec .obufClear s = .next (s.clearOutput.succeed 0) := rfl

/-- Settles O56: the comparison sets exactly one bit, and the clear moves OLEN alone before its
result is 0. -/
theorem compareAndClear : Obligations.CompareAndClear := by
  refine ⟨encodedN_of_hasFields ⟨rfl, rfl, rfl⟩, encodedN_of_hasFields ⟨rfl, rfl, rfl⟩,
    fun s => ⟨fun heq => ?_, fun hlt => ?_, fun hgt => ?_, exec_obufClear s⟩⟩
  · have hresult := cmpRaw_succeeds s
    rwa [heq, compareLanes_self] at hresult
  · exact compareLanes_of_lt hlt ▸ cmpRaw_succeeds s
  · exact compareLanes_of_gt hgt ▸ cmpRaw_succeeds s

end Sys2Proof.Claims
end

section
/-! SUPPORT. Which codes each operation and each command reports (`60_exceptions.md` R505), what an error
leaves (`60_exceptions.md` R503), and the second agent (`60_exceptions.md` R511). -/

namespace Sys2Proof.Machine

open Sys2Proof.Laws Sys2Proof.Claims

/-- Every code `x` can report is in the list `L`. -/
def ReportsOnly {α : Type} (L : List Nat) (x : Except Raise α) : Prop :=
  ∀ r, x = .error r → r.code.number.toNat ∈ L

section Reports

variable {α β : Type} {L M : List Nat} {x : Except Raise α}

theorem reportsOnly_ok (a : α) : ReportsOnly L (.ok a) := fun _ h => nomatch h

theorem reportsOnly_error {c : Code} (h : c.number.toNat ∈ L) (v p : Nat) :
    ReportsOnly L (.error ⟨c, v, p⟩ : Except Raise α) := fun _ hr => Except.error.inj hr ▸ h

namespace ReportsOnly

theorem mono (h : ReportsOnly L x) (hLM : L ⊆ M) : ReportsOnly M x := fun r hr => hLM (h r hr)

theorem bind {f : α → Except Raise β} (hx : ReportsOnly L x) (hf : ∀ a, ReportsOnly M (f a)) :
    ReportsOnly (L ++ M) (x.bind f) := by
  cases x with
  | error r => exact reportsOnly_error (List.mem_append_left M (hx r rfl)) _ _
  | ok a => exact (hf a).mono (List.subset_append_right L M)

theorem map (f : α → β) (hx : ReportsOnly L x) : ReportsOnly L (x.map f) := by
  cases x with
  | error r => exact reportsOnly_error (hx r rfl) _ _
  | ok a => exact reportsOnly_ok _

end ReportsOnly

/-- A check reports the codes that `errorOf` gives for illegal values. -/
theorem Field.ChecksAs.reportsOnly {f : Field} {legal : Nat → Prop} {errorOf : Nat → Nat} {v : Nat}
    (h : f.ChecksAs legal errorOf v) (hL : ¬ legal v → errorOf v ∈ L) :
    ReportsOnly L (f.check v) := by
  by_cases hlegal : legal v
  · rw [h.accepts hlegal]
    exact reportsOnly_ok v
  · obtain ⟨c, hc, herror⟩ := h.rejects hlegal
    rw [herror]
    exact reportsOnly_error (hc ▸ hL hlegal) _ _

end Reports

/-! ### Operands, checks and parses -/

/-- The codes of an operand fetch: an address has the width of D0 (`30_encoding.md` R105). -/
def Field.operandCodes : Field → List Nat
  | .addr => []
  | _ => [11]

/-- The codes of a check of any value (`10_state.md` R47 to R58). -/
def Field.checkCodes : Field → List Nat
  | .version | .prec | .foff => [5]
  | .ihl => [3, 5]
  | .tlen => [3]
  | .flags => [5, 4]
  | .tos => [4]
  | .ident | .ttl | .proto | .hcsum | .addr => []

/-- The codes of a check of the bits a parse extracts: those bits are never out of range, because a
field's bits hold no value above its maximum (`41_validated_fields.md` R201). -/
def Field.parseCodes : Field → List Nat
  | .ihl | .tlen => [3]
  | .flags | .tos => [4]
  | _ => []

theorem State.operand_reports (s : State) (f : Field) :
    ReportsOnly f.operandCodes (s.operand f) := by
  by_cases haddr : f = .addr
  · rw [haddr, State.operand_addr]
    exact reportsOnly_ok _
  · have hcodes : f.operandCodes = [11] := by
      cases f with
      | addr => exact absurd rfl haddr
      | _ => rfl
    rcases s.operand_cases f with ⟨-, h⟩ | ⟨-, h⟩ <;> rw [h, hcodes]
    · exact reportsOnly_error (by decide) _ _
    · exact reportsOnly_ok _

theorem Field.check_reports (f : Field) (v : Nat) : ReportsOnly f.checkCodes (f.check v) := by
  cases f with
  | version => exact (checksAs_version v).reportsOnly fun _ => by decide
  | prec => exact (checksAs_prec v).reportsOnly fun _ => by decide
  | foff => exact (checksAs_foff v).reportsOnly fun _ => by decide
  | tlen => exact (checksAs_tlen v).reportsOnly fun _ => by decide
  | tos => exact (checksAs_tos v).reportsOnly fun _ => by decide
  | ihl => exact (checksAs_ihl v).reportsOnly fun _ => by split <;> decide
  | flags => exact (checksAs_flags v).reportsOnly fun _ => by split <;> decide
  | ident | ttl | proto | hcsum | addr => exact reportsOnly_ok v

theorem State.validated_reports (s : State) (f : Field) :
    ReportsOnly (f.operandCodes ++ f.checkCodes) (s.validated f) := by
  rw [State.validated_eq_bind]
  exact (s.operand_reports f).bind f.check_reports

theorem Field.check_extract_reports (f : Field) {n : Nat} (hn : n < 2 ^ f.storageWidth) :
    ReportsOnly f.parseCodes (f.check (f.extract n)) := by
  cases f with
  | version =>
    replace hn : n < 256 := hn
    have hnibble : n >>> 4 ≤ 15 := by omega
    exact (checksAs_version _).reportsOnly fun h => absurd hnibble h
  | prec =>
    replace hn : n < 256 := hn
    have hbits : n >>> 5 ≤ 7 := by omega
    exact (checksAs_prec _).reportsOnly fun h => absurd hbits h
  | foff =>
    have hbits : n &&& 0x1FFF ≤ 8191 := Nat.and_le_right
    exact (checksAs_foff _).reportsOnly fun h => absurd hbits h
  | ihl =>
    have hnibble : Field.ihl.extract n ≤ 15 := Nat.and_le_right
    refine (checksAs_ihl _).reportsOnly fun h => ?_
    have hsmall : Field.ihl.extract n < 5 := by omega
    rw [if_pos hsmall]
    exact List.mem_singleton_self 3
  | flags =>
    replace hn : n < 256 := hn
    have hbits : ¬ 7 < n >>> 5 := by omega
    refine (checksAs_flags _).reportsOnly fun _ => ?_
    rw [Field.extract, if_neg hbits]
    exact List.mem_singleton_self 4
  | tos | tlen | ident | ttl | proto | hcsum | addr => exact Field.check_reports _ n

theorem parseByte_reports {f : Field} (hwidth : f.storageWidth = 8) (V : List Byte) :
    ReportsOnly (1 :: f.parseCodes) (parseByte f V) := by
  match V with
  | [] => exact reportsOnly_error (List.mem_cons_self ..) _ _
  | b :: _ =>
    have hfits : b.toNat < 2 ^ f.storageWidth := by rw [hwidth]; exact b.isLt
    exact (f.check_extract_reports hfits).mono (List.subset_cons_self ..)

theorem parsePair_reports {f : Field} (hwidth : f.storageWidth = 16) (V : List Byte) :
    ReportsOnly ([1, 2] ++ f.parseCodes) (parsePair f V) := by
  match V with
  | [] => exact reportsOnly_error (List.mem_append_left _ (by decide)) _ _
  | [_] => exact reportsOnly_error (List.mem_append_left _ (by decide)) _ _
  | b0 :: b1 :: _ =>
    have hfits : be16 b0 b1 < 2 ^ f.storageWidth := by
      rw [hwidth, be16_eq]
      omega
    exact (f.check_extract_reports hfits).mono (List.subset_append_right ..)

theorem parseQuad_reports (V : List Byte) : ReportsOnly [1, 2] (parseQuad V) := by
  match V with
  | [] => exact reportsOnly_error (by decide) _ _
  | [_] | [_, _] | [_, _, _] => exact reportsOnly_error (by decide) _ _
  | _ :: _ :: _ :: _ :: _ => exact reportsOnly_ok _

theorem ihlOfByteLength_reports (v : Nat) : ReportsOnly [10] (ihlOfByteLength v) := by
  by_cases h : v % 4 = 0 ∧ 20 ≤ v ∧ v ≤ 60
  · rw [ihlOfByteLength_ok h]
    exact reportsOnly_ok _
  · rw [ihlOfByteLength_none h]
    exact reportsOnly_error (by decide) _ _

theorem ttlDecrement_reports (v : Nat) : ReportsOnly [10] (ttlDecrement v) := by
  cases v with
  | zero => exact reportsOnly_error (by decide) _ _
  | succ v => exact reportsOnly_ok v

/-! ### The text scan (`44_address.md` R414) -/

theorem Scan.close_reports (st : Scan) : ReportsOnly [6, 8, 9] st.close := by
  unfold Scan.close
  split_ifs
  · exact reportsOnly_error (by decide) _ _
  · exact reportsOnly_error (by decide) _ _
  · exact reportsOnly_error (by decide) _ _
  · exact reportsOnly_ok _

theorem Scan.byte_reports (st : Scan) (c : Byte) : ReportsOnly [6, 7, 8, 9] (st.byte c) := by
  unfold Scan.byte
  split
  · exact reportsOnly_ok _
  · split
    · exact (st.close_reports.map _).mono (by decide)
    · exact reportsOnly_error (by decide) _ _

theorem Scan.run_reports (st : Scan) (cs : List Byte) :
    ReportsOnly [6, 7, 8, 9] (Scan.run st cs) := by
  induction cs generalizing st with
  | nil => exact st.close_reports.mono (by decide)
  | cons c cs ih =>
    rw [Scan.run_cons]
    exact ((st.byte_reports c).bind ih).mono (by decide)

theorem addressOfOctets_reports (octets : List Nat) : ReportsOnly [6] (addressOfOctets octets) := by
  unfold addressOfOctets
  split
  · exact reportsOnly_ok _
  · exact reportsOnly_error (by decide) _ _

theorem parseText_reports (V : List Byte) : ReportsOnly [1, 6, 7, 8, 9] (parseText V) := by
  match V with
  | [] => exact reportsOnly_error (by decide) _ _
  | c :: cs =>
    have hrun : ReportsOnly [6, 7, 8, 9] (Scan.run Scan.start (c :: cs)) := Scan.run_reports _ _
    exact (hrun.bind fun st => addressOfOctets_reports st.oct).mono (by decide)

/-! ### The commands (`60_exceptions.md` R505) -/

theorem conclusion_reports {i : Instr} (happ : appends i = false) (s : State) (V : List Byte) :
    ReportsOnly (listedCodes i) (conclusion i s V) := by
  cases i with
  | verParse _ | ihlParse _ | precParse _ | flagsParse _ | tosParse _ | ttlParse _ | protoParse _ =>
    exact parseByte_reports rfl V
  | tlenParse _ | foffParse _ | identParse _ | hcsumParse _ => exact parsePair_reports rfl V
  | addrParseBin _ => exact parseQuad_reports V
  | addrParseText _ => exact parseText_reports V
  | ihlBytelen | ihlOptlen | tosUnpack | flagsUnpack => exact (s.validated_reports _).map _
  | ihlFromBytelen => exact ihlOfByteLength_reports _
  | ttlExpired | addrClass => exact (s.operand_reports _).map _
  | ttlDec => exact (s.operand_reports _).bind ttlDecrement_reports
  | tosPack _ _ _ _ | flagsPack _ _ | addrOctets | csumCompute _ | csumVerify _ | cmpRaw =>
    exact reportsOnly_ok _
  | verRaw | ihlRaw | precRaw | tlenRaw | flagsRaw | foffRaw | tosRaw | ttlRaw | protoRaw | identRaw
  | hcsumRaw | addrRaw | obufClear => exact s.validated_reports _
  | _ => cases happ

/-- A command that appends reports the codes of its operand, and BUFFER_FULL after them. -/
theorem exists_output_reports {i : Instr} (happ : appends i = true) :
    ∃ L, listedCodes i = L ++ [12] ∧ ∀ s, ReportsOnly L (output i s) := by
  cases i with
  | addrFormatText => exact ⟨[], rfl, fun s => (s.operand_reports _).map _⟩
  | verSer | ihlSer | precSer | tlenSer | flagsSer | foffSer | tosSer | ttlSer | protoSer | identSer
  | hcsumSer | addrSerBin => exact ⟨_, rfl, fun s => (s.validated_reports _).map _⟩
  | _ => cases happ

/-- A command succeeds, or it is one raise from the state before, of a code listed for it. -/
theorem exec_succeeds_or_raises {i : Instr} {s t : State} (hexec : exec i s = .next t) :
    t.status = 0#32 ∨ ∃ r : Raise, t = s.raise r ∧ r.code.number.toNat ∈ listedCodes i := by
  rcases exec_cases i s with ⟨happ, -, he⟩ | ⟨happ, he⟩ | ⟨-, he⟩ <;> cases he.symm.trans hexec
  · cases hx : conclusion i s (s.view (viewOffset i)) with
    | ok v => exact .inl rfl
    | error r => exact .inr ⟨r, rfl, conclusion_reports happ s _ r hx⟩
  · obtain ⟨L, hlisted, hreports⟩ := exists_output_reports happ
    rw [hlisted]
    rcases emit_cases s (output i s) with ⟨r, hemit, hr⟩ | ⟨bytes, -, -, hemit⟩ <;> rw [hemit]
    · refine .inr ⟨r, rfl, ?_⟩
      rcases hr with hr | ⟨bytes, -, rfl⟩
      · exact List.mem_append_left _ (hreports s r hr)
      · exact List.mem_append_right L (List.mem_singleton_self 12)
    · exact .inl rfl
  · exact .inl rfl

/-- Settles O24: a command that does not succeed raises a listed code, and STATUS holds its number. -/
theorem commandsReportOnlyListedCodes : Obligations.CommandsReportOnlyListedCodes := by
  intro i s t hexec
  refine (exec_succeeds_or_raises hexec).imp_right ?_
  rintro ⟨r, rfl, hlisted⟩
  exact ⟨_, hlisted, statusWord_eq_ofNat r.code⟩

/-- Settles O25: a command that does not succeed is one raise from the state before, also where an
append finds no room. -/
theorem errorsArePrecise : Obligations.ErrorsArePrecise := by
  intro i s t hexec hstatus
  obtain ⟨r, rfl, -⟩ := (exec_succeeds_or_raises hexec).resolve_left hstatus
  rfl

/-- Settles O16: the agent decides before the address and the kind of access are looked at. -/
theorem secondAgentIsRefused : Obligations.SecondAgentIsRefused := by
  intro s a rest hpending hagent
  rw [step_access hpending, State.perform, hagent]

end Sys2Proof.Machine
end

section
/-! SUPPORT. What an event leaves of the host's run: the configuration and the events still to come stay,
and an admitted event always has a next state (`20_memory.md` R72, `70_reset_and_hazards.md` R614,
R616). -/

namespace Sys2Proof.Machine

/-! ### What every event keeps -/

theorem State.EventEffect.config_eq {s t : State} (h : s.EventEffect t) : t.config = s.config := by
  cases h with
  | ranCommand i w _ hexec => exact (commandsWriteOnlyTheirOutputs i _ t hexec).1
  | wroteIbuf i b => exact s.ibufWrite_config i b
  | ignored | answered _ | wroteD0 _ | wroteD1 _ | wroteIlen _ | refusedWord _ | wasReset => rfl

theorem State.EventEffect.pending_eq {s t : State} (h : s.EventEffect t) : t.pending = s.pending := by
  cases h with
  | ranCommand i w _ hexec =>
    obtain ⟨-, -, -, -, -, -, hpending, -⟩ := commandsWriteOnlyTheirOutputs i _ t hexec
    exact hpending
  | wroteIbuf i b => exact s.ibufWrite_pending i b
  | ignored | answered _ | wroteD0 _ | wroteD1 _ | wroteIlen _ | refusedWord _ | wasReset => rfl

/-! ### An admitted event has a next state -/

theorem State.registerAccess_completes (s : State) {off : Nat} {k : AccessKind} (hk : k.IsWord)
    (haligned : off % 4 = 0) : ∃ t, s.registerAccess off k = .next t := by
  rcases hk with ⟨v, rfl⟩ | rfl
  · obtain ⟨t, ht⟩ := s.registerWrite_completes off v
    exact ⟨t, (if_pos haligned).trans ht⟩
  · exact ⟨_, if_pos haligned⟩

theorem State.ibufAccess_completes (s : State) (i : Nat) {k : AccessKind} (hk : k.IsByte) :
    ∃ t, s.ibufAccess i k = .next t := by
  rcases hk with ⟨b, rfl⟩ | rfl <;> exact ⟨_, rfl⟩

theorem State.obufAccess_completes (s : State) (i : Nat) {k : AccessKind} (hk : k.IsByte) :
    ∃ t, s.obufAccess i k = .next t := by
  rcases hk with ⟨b, rfl⟩ | rfl <;> exact ⟨_, rfl⟩

/-- An admitted access is the host's, at an offset from CODEC_BASE whose window takes its width. -/
theorem Access.exists_offset_of_legal {c : Config} {a : Access} (h : a.legal c = true) :
    ∃ off k, a = ⟨.host, c.base + off, k⟩ ∧
      ((k.IsWord ∧ off < 0x1000 ∧ off % 4 = 0) ∨ (k.IsByte ∧ 0x1000 ≤ off ∧ off < 0x3000)) := by
  obtain ⟨agent, addr, k⟩ := a
  simp only [Access.legal, Bool.and_eq_true, beq_iff_eq, decide_eq_true_eq] at h
  obtain ⟨⟨rfl, hbase⟩, hkind⟩ := h
  refine ⟨addr - c.base, k, by rw [Nat.add_sub_cancel' hbase], ?_⟩
  cases k with
  | read32 | write32 v => exact .inl ⟨by simp [AccessKind.IsWord], by simpa using hkind⟩
  | read8 | write8 b => exact .inr ⟨by simp [AccessKind.IsByte], by simpa using hkind⟩
  | otherWidth => cases hkind

theorem State.perform_completes (s : State) {a : Access} (h : a.legal s.config = true) :
    ∃ t, s.perform a = .next t := by
  obtain ⟨off, k, rfl, ⟨hk, hoff, haligned⟩ | ⟨hk, hlo, hhi⟩⟩ := Access.exists_offset_of_legal h
  · rw [s.perform_register k hoff]
    exact s.registerAccess_completes hk haligned
  · rcases Nat.lt_or_ge off 0x2000 with hibuf | hobuf
    · rw [s.perform_ibuf k hlo hibuf]
      exact s.ibufAccess_completes _ hk
    · rw [s.perform_obuf k hobuf hhi]
      exact s.obufAccess_completes _ hk

theorem State.handle_completes (s : State) {e : Event} (h : e.legal s.config = true) :
    ∃ t, s.handle e = .next t := by
  cases e with
  | access a => exact s.perform_completes h
  | reset => exact ⟨_, rfl⟩

theorem step_of_pending {s : State} {e : Event} {rest : List Event} (h : s.pending = e :: rest) :
    step s = State.handle { s with pending := rest } e := by
  rw [step, h]

theorem step_of_idle {s : State} (h : s.pending = []) : step s = .next s := by
  rw [step, h]

/-- Settles O22: the next event is admitted, so it has a next state, and that state has the same
configuration and the rest of the same events. -/
theorem conformingRunsNeverStop : Obligations.ConformingRunsNeverStop := by
  intro s hconf
  cases hpending : s.pending with
  | nil => exact ⟨s, step_of_idle hpending, hconf⟩
  | cons e rest =>
    have hlegal : ∀ e' ∈ e :: rest, Event.legal s.config e' = true := hpending ▸ hconf
    obtain ⟨t, ht⟩ := State.handle_completes { s with pending := rest }
      (hlegal e List.mem_cons_self)
    have heffect := State.handle_effect ht
    refine ⟨t, (step_of_pending hpending).trans ht, fun e' he' => ?_⟩
    rw [heffect.pending_eq] at he'
    rw [heffect.config_eq]
    exact hlegal e' (List.mem_cons_of_mem e he')

end Sys2Proof.Machine
end

section
/-! SUPPORT. The codec at rest and at reset, and the command that always completes
(`70_reset_and_hazards.md` R600, R601, R614). -/

namespace Sys2Proof.Machine

/-! ### A buffer no byte of which is written reads as its draw (`10_state.md` R41, R42) -/

theorem State.ibufByte_of_empty {s : State} (h : s.ibuf = []) (i : Nat) :
    s.ibufByte i = Config.ibufDraw s.resets i := by
  rw [State.ibufByte, h, Memory.find_nil, Option.getD_none]

theorem State.obufByte_of_empty {s : State} (h : s.obuf = []) (i : Nat) :
    s.obufByte i = Config.obufDraw s.resets i := by
  rw [State.obufByte, h, Memory.find_nil, Option.getD_none]

/-! ### The reset state (`70_reset_and_hazards.md` R600) -/

/-- Both buffers are empty and both lengths 0; IDLE is a legal CODE, and no result or payload is set. -/
theorem State.resetWith_inv {c : Config} (h : c.ok = true) : (State.resetWith c).Inv where
  sizes := h
  ilenBound := Nat.zero_le _
  olenBound := Nat.zero_le _
  ibufWf := .nil
  ibufBelow _ hx := absurd hx List.not_mem_nil
  obufWf := .nil
  obufBelow _ hx := absurd hx List.not_mem_nil
  outputWritten i hi := absurd hi (Nat.not_lt_zero i)
  statusLegal := .inr rfl
  successPayload _ := ⟨rfl, rfl⟩
  raiseResult _ := rfl
  positionCodes hepos := absurd rfl hepos
  positionBound := Nat.zero_le _

/-- Settles O8: the branch of the step with no event to take. -/
theorem idleStepChangesNothing : Obligations.IdleStepChangesNothing := fun _ => step_of_idle

/-- Settles O17: the step is the platform reset, which empties both buffers and counts itself. -/
theorem platformResetLeavesResetValues : Obligations.PlatformResetLeavesResetValues := by
  intro s rest hpending
  have hstep : step s = .next (State.platformReset { s with pending := rest }) :=
    step_of_pending hpending
  refine ⟨_, hstep, ?_⟩
  have hibuf := State.ibufByte_of_empty (State.platformReset_ibuf { s with pending := rest })
  have hobuf := State.obufByte_of_empty (State.platformReset_obuf { s with pending := rest })
  simp [hibuf, hobuf]

/-- Settles O18: the registers and sizes are the literals of the reset state, and its buffers are empty. -/
theorem resetStateHasResetValues : Obligations.ResetStateHasResetValues := by
  have hibuf := State.ibufByte_of_empty (s := State.reset) rfl
  have hobuf := State.obufByte_of_empty (s := State.reset) rfl
  exact ⟨rfl, rfl, rfl, rfl, rfl, rfl, rfl, rfl, rfl, hibuf, hobuf, rfl, rfl⟩

/-- Settles O19: `resetWith_inv`. -/
theorem resetMeetsTheInvariant : Obligations.ResetMeetsTheInvariant := fun _ => State.resetWith_inv

/-- Settles O21: each of the three shapes of command answers a next state. -/
theorem everyCommandCompletes : Obligations.EveryCommandCompletes := exec_completes

end Sys2Proof.Machine
end
